-- ==== Sys2Proof/Word.lean ====
section
/-! DEFINITION. The word types of the Xfire core (spec/00_scope.md R4, R5). -/

namespace Sys2Proof

/-- A byte of memory: 8 bits (00_scope.md R5, decision D4; PRESUMED, notes/assumptions/22.md). -/
abbrev Byte := BitVec 8

/-- A half of memory: 16 bits (00_scope.md R5, decision D4; PRESUMED, notes/assumptions/22.md). -/
abbrev Half := BitVec 16

/-- A 32-bit datum: what a GPR or an FPR holds and what a special register transfer moves (R4, R5). -/
abbrev Word := BitVec 32

/-- A 64-bit datum, held by an even-odd pair of registers (R5, R14, R20). -/
abbrev DoubleWord := BitVec 64

/-- The number of a general purpose or floating point register, 0 to 31 (10_state.md R10, R16). -/
abbrev RegNum := Fin 32

/-- The number of an event: a bit of CR and of MR, 0 to 31 (10_state.md R30, R39). -/
abbrev EventNum := Fin 32

/-- A special register address. The source writes it with two hexadecimal digits and gives its field no
width (30_encoding.md R81): DESIGN CHOICE, 8 bits, notes/assumptions/2.md. -/
abbrev SprAddress := BitVec 8

end Sys2Proof
end

