-- ==== Sys2Proof/Machine/Kinds.lean ====
section
/-! DEFINITION. The kinds of data that State is made of: registers with their flags, the classes of instructions the
source describes without naming a member, and the turns of the agents (00_scope.md R6). -/

namespace Sys2Proof.Machine

/-- A general purpose register as it is stored: 32 data bits and the flags Z, V and C (10_state.md R11). N is data
bit 31 and has no storage of its own (R12). -/
structure Gpr where
  data : Word
  z : Bool
  v : Bool
  c : Bool
  deriving DecidableEq, Repr

/-- A floating point register as it is stored: 32 data bits and the flags Z, I and A (10_state.md R17). N is data
bit 31 and has no storage of its own (R18). -/
structure Fpr where
  data : Word
  z : Bool
  i : Bool
  a : Bool
  deriving DecidableEq, Repr

/-- The status of an ALU operation: what the flags C, V and Z take from it (40_integer_writeback.md R90). -/
structure AluStatus where
  c : Bool
  v : Bool
  z : Bool
  deriving DecidableEq, Repr, Inhabited

/-- The status of an FPU operation: what the flags A, I and Z take from it (41_float_writeback.md R110). -/
structure FpuStatus where
  a : Bool
  i : Bool
  z : Bool
  deriving DecidableEq, Repr, Inhabited

/-- The five stored bits of CFG (10_state.md R23 to R28). Bit 3 is not stored (R27). -/
structure Cfg where
  /-- Bit 0: set in user mode, clear in supervisor mode (R24). -/
  user : Bool
  /-- Bit 1: support for nested exceptions (R25). -/
  nested : Bool
  /-- Bit 2: set in auto stop mode, clear in free running mode (R26). -/
  autoStop : Bool
  /-- Bits 5 to 4: the rounding mode (R28). -/
  rounding : BitVec 2
  deriving DecidableEq, Repr

/-- The rounding modes of floating point operations (R28, R113). -/
inductive RoundingMode where
  | rn
  | rz
  | rp
  | rm
  deriving DecidableEq, Repr, Inhabited

/-- The nine special registers that have an address (10_state.md R22). -/
inductive Spr where
  | cfg
  | stp
  | mr
  | ir
  | tmr
  | pwd
  | pwa
  | prd
  | pra
  deriving DecidableEq, Repr

/-- How a narrow load fills the register above its datum (R93). -/
inductive Fill where
  | zeros
  | sign
  deriving DecidableEq, Repr

/-- The result and the status of an FPU operation of n bits. -/
structure FpuResult (n : Nat) where
  value : BitVec n
  status : FpuStatus
  deriving DecidableEq, Repr, Inhabited

/-- A source of an ALU or FPU operation. The source document does not list an operation's sources (R90, R110), so an
operation may have any of these, in any number (DESIGN CHOICE, notes/assumptions/23.md). -/
inductive Operand where
  /-- A GPR. -/
  | gpr (r : RegNum)
  /-- A pair of GPRs, named by its even register (R14). -/
  | gprPair (r : RegNum)
  /-- An FPR. -/
  | fpr (f : RegNum)
  /-- A pair of FPRs, named by its even register (R20). -/
  | fprPair (f : RegNum)
  /-- A value of the instruction's own. -/
  | immediate (w : Word)
  deriving DecidableEq, Repr

/-- What a source holds when it is read: the register as it is stored, its flags with it, since the source does not say
which instructions read the flags (R13, N3; notes/assumptions/23.md). -/
inductive OperandValue where
  | gpr (g : Gpr)
  | gprPair (even odd : Gpr)
  | fpr (x : Fpr)
  | fprPair (even odd : Fpr)
  | immediate (w : Word)
  deriving DecidableEq, Repr

/-- An instruction of one of the classes the source describes without naming a member (30_encoding.md R82). An ALU or
FPU operation has a number `op`, which stands for the operation of the absent instruction set section, and its sources;
a load has its address, which that section would form. notes/assumptions/23.md. -/
inductive ClassOp where
  /-- An ALU operation with a 32-bit result (R90). -/
  | alu (op : Nat) (rd : RegNum) (srcs : List Operand)
  /-- An ALU operation with a 64-bit result on a register pair (R91). -/
  | aluPair (op : Nat) (rd : RegNum) (srcs : List Operand)
  /-- A load of a word into a GPR (R92). -/
  | loadWord (rd : RegNum) (addr : Nat)
  /-- A load of a byte into a GPR (R93). -/
  | loadByte (fill : Fill) (rd : RegNum) (addr : Nat)
  /-- A load of a half into a GPR (R93). -/
  | loadHalf (fill : Fill) (rd : RegNum) (addr : Nat)
  /-- An FPU operation with a single-precision result (R110). -/
  | fpu (op : Nat) (fd : RegNum) (srcs : List Operand)
  /-- An FPU operation with a double-precision result on a register pair (R111). -/
  | fpuPair (op : Nat) (fd : RegNum) (srcs : List Operand)
  /-- A load of a word into an FPR (R112). -/
  | loadFloat (fd : RegNum) (addr : Nat)
  /-- The return from an exception (R190, `EXC_RETURN`). -/
  | exceptionReturn
  deriving DecidableEq, Repr

/-- What an agent beside the core's instructions does in its turn (00_scope.md R6). -/
inductive AgentAct where
  /-- The system tick timer counts (R175). -/
  | timerCounts
  /-- The system tick timer loads its counter, on a start request or otherwise (R176, R178). -/
  | timerLoads
  /-- The detection logic detects the condition of event i (R160). -/
  | detects (i : EventNum)
  /-- The exception logic starts the handler of event i, if event i may be taken (R161, R190). -/
  | enters (i : EventNum)
  /-- The peripherals present a datum and their identification (R36, R37, R180). -/
  | presents (datum ident : Word)
  deriving DecidableEq, Repr

/-- Whose turn it is. -/
inductive Turn where
  /-- The core executes the instruction at PC; if that word is no instruction the source names, it is of the class
  given, if one is given. -/
  | core (unlisted : Option ClassOp)
  /-- Another agent acts. -/
  | agent (act : AgentAct)
  deriving DecidableEq, Repr

end Sys2Proof.Machine
end

