-- ==== Sys2Proof/Config.lean ====
section
/-! DEFINITION. What an implementation fixes and the source leaves open: the OPEN parameters of
spec/92_eei_decisions.md and the free values (`draw`) of spec/93_implementation_defined.md. Every constant here is
opaque: nothing in Lean can learn its value, so a theorem holds for every value of it. A function of a `Nat` is
applied to the state's counter of draws, so that each use is a fresh unconstrained value. -/

namespace Sys2Proof

/-- The byte order of memory (decision D5). -/
inductive Config.ByteOrder where
  | little
  | big
  deriving DecidableEq, Repr, Inhabited

/-- What a 1 in one of MR bits 31 to 0 means (decision D10). -/
inductive Config.MaskSense where
  | enables
  | disables
  deriving DecidableEq, Repr, Inhabited

/-- Which link register "the top" of the stack is (60_exceptions.md R167): the one last written, or the next one to
write. -/
inductive Config.StackTop where
  | lastWritten
  | nextToWrite
  deriving DecidableEq, Repr, Inhabited

/-- Whether something the source does not settle is performed or has no meaning in the model. -/
inductive Config.Policy where
  | refuse
  | allow
  deriving DecidableEq, Repr, Inhabited

/-- The direction of a special register access (10_state.md R43). -/
inductive Config.SprAccess where
  | read
  | write
  deriving DecidableEq, Repr, Inhabited

namespace Config

/-! ### Parameters of the implementation -/

/-- `HAS_LRS` (R3, decision D1): L1 to L31 and ESP are implemented. notes/assumptions/7.md. -/
opaque hasLrs : Bool

/-- `R0_IS_ZERO` (R15, decision D3): R0 is hardwired to zero. notes/assumptions/6.md. -/
opaque r0IsZero : Bool

/-- `BYTE_ORDER` (decision D5). notes/assumptions/3.md. -/
opaque byteOrder : ByteOrder

/-- `MISALIGNED_POLICY` (decision D6): a data access whose address is no multiple of its size.
notes/assumptions/21.md. -/
opaque misalignedPolicy : Policy

/-- `MR_SET_MEANS` (R163, decision D10). notes/assumptions/27.md. -/
opaque mrSetMeans : MaskSense

/-- `USER_SPR_POLICY` (R153, decision D12), for each direction and address, since the source does not say whether
it is one for all addresses. notes/assumptions/17.md. -/
opaque userSprPolicy : SprAccess → SprAddress → Policy

/-- `EXC_BIT_ASSIGNMENT` as far as the source names an event (R162, R175): the bit of CR that is systick's.
notes/assumptions/26.md. -/
opaque systickBit : EventNum

/-- `ESP_DISCIPLINE` as far as R167 bounds it: which register the top is that ESP names.
notes/assumptions/38.md. -/
opaque espTop : StackTop

/-- The 32-bit result of an ALU operation, from its number and what its sources hold (R90). notes/assumptions/23.md. -/
opaque aluWord : Nat → List Machine.OperandValue → Word

/-- The 64-bit result of an ALU operation on a pair (R91). notes/assumptions/23.md. -/
opaque aluDouble : Nat → List Machine.OperandValue → DoubleWord

/-- The value function of the FPU operations with a single-precision result, with `FPU_FLAG_FN`: result and status, from
the number of the operation, what its sources hold and the rounding mode alone (R110). notes/assumptions/23.md. -/
opaque fpuSingle : Nat → List Machine.OperandValue → Machine.RoundingMode → Machine.FpuResult 32

/-- The value function of the FPU operations with a double-precision result, with `FPU_FLAG_FN` (R111).
notes/assumptions/23.md. -/
opaque fpuDouble : Nat → List Machine.OperandValue → Machine.RoundingMode → Machine.FpuResult 64

/-- The encoding, of which the source gives nothing (R81, R82, N2): an unknown one-to-one assignment of 32-bit words.
The word of the instruction term numbered n is this applied to n. Every one-to-one encoding of the instruction terms
has this form for some permutation, so nothing is lost and nothing is picked. notes/assumptions/1.md. -/
opaque instructionWord : Equiv.Perm Word

/-! ### Free values -/

/-- What a byte of instruction memory that nothing has written holds (R47, N9: any value). notes/assumptions/5.md. -/
opaque codeAtReset : Nat → Byte

/-- What a byte of data memory that nothing has written holds (R47, N9: any value). notes/assumptions/5.md. -/
opaque dataAtReset : Nat → Byte

/-- `ALU_FLAG_FN`: C, V and Z after an ALU operation with a 32-bit result, draws since the function is unknown (R90,
decision D24). notes/assumptions/23.md. -/
opaque aluWordStatus : Nat → List Machine.OperandValue → Nat → Machine.AluStatus

/-- `ALU_FLAG_FN`: C, V and Z after an ALU operation on a pair, draws since the function is unknown (R91, decision D24).
notes/assumptions/23.md. -/
opaque aluDoubleStatus : Nat → List Machine.OperandValue → Nat → Machine.AluStatus

/-- C of the destination after `movs2i` (R152, decision D11: a draw). notes/assumptions/14.md. -/
opaque movs2iCarry : Nat → Bool

/-- V of the destination after `movs2i` (R152, decision D11: a draw). notes/assumptions/14.md. -/
opaque movs2iOverflow : Nat → Bool

/-- Z of the destination after `movs2i` (R152, decision D11: a draw). notes/assumptions/14.md. -/
opaque movs2iZero : Nat → Bool

/-- The counter a `movs2i` from TMR obtains, given the count last held (R145, decision D17: a draw).
notes/assumptions/15.md. -/
opaque tmrSample : Word → Nat → Word

/-- What a `movs2i` from PRD obtains, given the datum last presented (R148, decision D14: a draw).
notes/assumptions/16.md. -/
opaque prdSample : Word → Nat → Word

/-- What a `movs2i` from PRA obtains, given the identification last presented (R149, decision D14: a draw).
notes/assumptions/16.md. -/
opaque praSample : Word → Nat → Word

/-- `TIMER_SEMANTICS`: the count after the timer counts while it stands at zero, given STP and CFG bit 2
(R175 to R177, N18, N20, N21). notes/assumptions/26.md. -/
opaque tmrAtZero : BitVec 22 → Bool → Nat → Word

/-- `TIMER_SEMANTICS`: whether counting at zero raises systick (N21). notes/assumptions/26.md. -/
opaque systickAtZero : BitVec 22 → Bool → Nat → Bool

/-- `TIMER_SEMANTICS`: the count after the timer loads its counter, given STP and CFG bit 2 (R176, N18, N20).
notes/assumptions/26.md. -/
opaque tmrLoaded : BitVec 22 → Bool → Nat → Word

/-- `TIMER_SEMANTICS`: whether loading the counter raises systick. notes/assumptions/26.md. -/
opaque systickOnLoad : BitVec 22 → Bool → Nat → Bool

/-- `ESP_DISCIPLINE`: ESP after an exception entry, from ESP before it and CFG bit 1 (R167, R190, N15).
notes/assumptions/25.md. -/
opaque entryEsp : BitVec 5 → Bool → Nat → BitVec 5

/-- `L_HI6`: what an exception entry writes to bits 35 to 30 of the link register (R41, R165, N14).
notes/assumptions/25.md. -/
opaque linkHigh : Nat → BitVec 6

/-- The return address saved by an exception entry at the last slot, where PC + 1 is not stated (R38, D7).
notes/assumptions/19.md. -/
opaque linkAtLastSlot : Nat → BitVec 30

/-- `GM_UPDATE` on entry: MR bit 32 after an exception entry (R164, N13). notes/assumptions/25.md, 37.md. -/
opaque entryGlobalMask : Nat → Bool

/-- `MODE_ON_ENTRY`: CFG bit 0 after an exception entry (R170, N22). notes/assumptions/25.md. -/
opaque entryUserMode : Nat → Bool

/-- `EXC_VECTOR`: where control goes on event i (R190, N16), free at each entry since the source does not say that the
address is fixed. notes/assumptions/25.md. -/
opaque excVector : EventNum → Nat → BitVec 30

/-- `ESP_DISCIPLINE` on return: ESP afterwards, from ESP before and CFG bit 1. notes/assumptions/28.md. -/
opaque returnEsp : BitVec 5 → Bool → Nat → BitVec 5

/-- `GM_UPDATE` on return: MR bit 32 afterwards (N13, N17). notes/assumptions/28.md, 37.md. -/
opaque returnGlobalMask : Nat → Bool

/-- `EXC_RETURN`: CFG bit 0 after a return (N17, N22). notes/assumptions/28.md. -/
opaque returnUserMode : Nat → Bool

end Config

end Sys2Proof
end

