-- ==== Sys2Proof/Syntax.lean ====
section
/-! DEFINITION. The instructions: one constructor for each row of spec/opcode_table.json, as abstract terms
(30_encoding.md R82, R85; decision D21). -/

namespace Sys2Proof

/-- The two instructions the source names (30_encoding.md R82). -/
inductive Instr where
  /-- `movi2s a, rs`: set special register `a` from GPR `rs` (42_special_register_moves.md R130). -/
  | movi2s (a : SprAddress) (rs : RegNum)
  /-- `movs2i rd, a`: read special register `a` into GPR `rd` (42_special_register_moves.md R131). -/
  | movs2i (rd : RegNum) (a : SprAddress)
  deriving DecidableEq, Repr

end Sys2Proof
end

