-- ==== Sys2Proof/WellFormed.lean ====
section
/-! DEFINITION. Which instruction terms name a register of the source's table (10_state.md R22; R84). -/

namespace Sys2Proof

/-- The special register address operand of an instruction. -/
def Instr.address : Instr → SprAddress
  | .movi2s a _ => a
  | .movs2i _ a => a

/-- An instruction is well formed when its address is one of the nine of the table, 0x00 to 0x08
(10_state.md R22). A term that is not well formed still decodes, and `exec` refuses it by name (R150). -/
def Instr.wellFormed (i : Instr) : Bool :=
  decide (i.address.toNat ≤ 0x08)

end Sys2Proof
end

