-- ==== Sys2Proof/Decode.lean ====
section
/-! DEFINITION. Bytes to instructions and back. The source gives no encoding (30_encoding.md R81, R82; N2), so the
word of an instruction is named only symbolically, through `Config.instructionWord`; what the spec does fix is
modelled here: 32-bit instructions, one for each 4-byte slot (R80), and distinct instructions having distinct words. -/

namespace Sys2Proof

/-- Why bytes are not an instruction of the table. -/
inductive DecodeError where
  /-- Fewer than the four bytes of an instruction (R80). -/
  | truncated
  /-- The word is that of no instruction the source names (R82). -/
  | unlisted
  deriving DecidableEq, Repr

/-! ### Byte order (decision D5) -/

/-- The 32-bit value of four bytes, the first at the lowest address, in memory's byte order. -/
def wordOfBytes (b0 b1 b2 b3 : Byte) : Word :=
  match Config.byteOrder with
  | .little => b3 ++ b2 ++ b1 ++ b0
  | .big => b0 ++ b1 ++ b2 ++ b3

/-- The 16-bit value of two bytes, the first at the lower address, in memory's byte order. -/
def halfOfBytes (b0 b1 : Byte) : Half :=
  match Config.byteOrder with
  | .little => b1 ++ b0
  | .big => b0 ++ b1

/-- The byte of a word that lies k bytes above its address, in memory's byte order. -/
def byteOfWord (w : Word) (k : Nat) : Byte :=
  match Config.byteOrder with
  | .little => w.extractLsb' (8 * k) 8
  | .big => w.extractLsb' (24 - 8 * k) 8

/-- The four bytes of a word, the lowest address first. -/
def bytesOfWord (w : Word) : List Byte :=
  [byteOfWord w 0, byteOfWord w 1, byteOfWord w 2, byteOfWord w 3]

/-! ### Words -/

/-- A numbering of the instruction terms. It is no bit layout of the hardware's: `Config.instructionWord` turns the
number into the hardware's own, unknown word. -/
def termNumber : Instr → Nat
  | .movi2s a rs => a.toNat * 32 + rs.val
  | .movs2i rd a => 8192 + a.toNat * 32 + rd.val

/-- The term with a number, if there is one. -/
def termOfNumber (n : Nat) : Option Instr :=
  match n / 8192 with
  | 0 => some (.movi2s (BitVec.ofNat 8 (n / 32)) (Fin.ofNat 32 n))
  | 1 => some (.movs2i (Fin.ofNat 32 n) (BitVec.ofNat 8 (n / 32)))
  | _ => none

/-- The instruction whose word is w, if the source names one (R82). -/
def decodeWord (w : Word) : Option Instr :=
  termOfNumber (Config.instructionWord.symm w).toNat

/-- The instruction at the head of some bytes, with the bytes after it (R80: four bytes each). -/
def decode : List Byte → Except DecodeError (Instr × List Byte)
  | b0 :: b1 :: b2 :: b3 :: rest =>
    match decodeWord (wordOfBytes b0 b1 b2 b3) with
    | some i => .ok (i, rest)
    | none => .error .unlisted
  | _ => .error .truncated

/-- The word of an instruction. -/
def encode (i : Instr) : Word :=
  Config.instructionWord (BitVec.ofNat 32 (termNumber i))

/-- The four bytes of an instruction, the lowest address first. -/
def encodeBytes (i : Instr) : List Byte :=
  bytesOfWord (encode i)

/-- What the decoder reads from an instruction whose first nbits bits are w and whose other bits are 0, its word laid
out in memory's byte order. -/
def decodeTableWord (nbits w : Nat) : Option Instr :=
  match decode (bytesOfWord (BitVec.ofNat 32 (w % 2 ^ nbits))) with
  | .ok (i, _) => some i
  | .error _ => none

end Sys2Proof
end

