-- ==== Sys2Proof/Machine/State.lean ====
section
/-! DEFINITION. The state of the Xfire core (10_state.md; 00_scope.md R7), its value after reset (R44 to R47), and the
reasons a step can stop. -/

namespace Sys2Proof.Machine

/-- Memory: the bytes that have been written, as (address, byte) pairs with strictly rising addresses, none equal to
what an unlisted address reads as. -/
abbrev Memory := List Host.Cell

/-- The machine. -/
structure State where
  /-- R0 to R31 (R10 to R15). -/
  gprs : Vector Gpr 32
  /-- F0 to F31 (R16 to R21). -/
  fprs : Vector Fpr 32
  /-- CFG, address 0x00 (R23 to R28). -/
  cfg : Cfg
  /-- STP, address 0x01 (R29). -/
  stp : BitVec 22
  /-- MR, address 0x02; bit 32 is the global mask bit (R30, R31). -/
  mr : BitVec 33
  /-- IR, address 0x03 (R32). -/
  ir : Word
  /-- TMR, address 0x04 (R33). -/
  tmr : Word
  /-- PWD, address 0x05 (R34). -/
  pwd : Word
  /-- PWA, address 0x06 (R35). -/
  pwa : Word
  /-- PRD, address 0x07: what the peripherals last presented (R36). -/
  prd : Word
  /-- PRA, address 0x08: what the peripherals last presented (R37). -/
  pra : Word
  /-- PC, in units of 4 bytes (R38). -/
  pc : BitVec 30
  /-- CR, one bit for each event (R39). -/
  cr : Word
  /-- L0 to L31; L1 to L31 only with `HAS_LRS` (R40, R41). -/
  links : Vector (BitVec 36) 32
  /-- ESP, only with `HAS_LRS` (R42). -/
  esp : BitVec 5
  /-- The instruction space (R60). -/
  code : Memory
  /-- Data memory (R62). -/
  data : Memory
  /-- The start requests delivered to the timer that it has not taken up (R27, R178). The model's own;
  notes/assumptions/12.md. -/
  timerStarts : Nat
  /-- Whose turns come next; when none is listed, it is the core's. The model's own; notes/assumptions/10.md. -/
  turns : List Turn
  /-- How many draws have been made. The model's own; notes/assumptions/9.md. -/
  draws : Nat
  deriving DecidableEq, Repr

/-- A general purpose register after reset (R44, R46). -/
def Gpr.reset : Gpr := ⟨0, false, false, false⟩

/-- A floating point register after reset (R44, R46). -/
def Fpr.reset : Fpr := ⟨0, false, false, false⟩

/-- The machine right after reset (R44 to R47): every register 0 but L0, which holds 0x800000000 (R45). Nothing is
listed in memory. The last three fields are the model's own (DESIGN CHOICE, notes/assumptions/9.md, 10.md, 12.md). -/
def State.reset : State where
  gprs := Vector.replicate 32 Gpr.reset
  fprs := Vector.replicate 32 Fpr.reset
  cfg := ⟨false, false, false, 0⟩
  stp := 0
  mr := 0
  ir := 0
  tmr := 0
  pwd := 0
  pwa := 0
  prd := 0
  pra := 0
  pc := 0
  cr := 0
  links := (Vector.replicate 32 0).set 0 0x800000000#36
  esp := 0
  code := []
  data := []
  timerStarts := 0
  turns := []
  draws := 0

/-- The source names no fault: nothing stops the machine with one (00_scope.md R8), so no step of the model raises
one. Safe: there is none to leave out. -/
inductive Fault where
  deriving DecidableEq, Repr

/-- Why the model gives a step no meaning. Each is safe: nothing can be proved of what the hardware does there. -/
inductive Refusal where
  /-- Raised by an arm of `exec` for an instruction that has no meaning yet. No arm raises it. Safe. -/
  | notModelled (mnemonic : String)
  /-- Raised by `movi2s` and `movs2i` in user mode where `USER_SPR_POLICY` does not allow the access (R153, D12). Safe. -/
  | userModeAccess
  /-- Raised by `movi2s` and `movs2i` with an address above 0x08 (R150, D13). Safe. -/
  | unmappedSpecialRegister
  /-- Raised by the sequential step from PC = 0x3FFFFFFF (R38, R151, D7). Safe. -/
  | pastLastSlot
  /-- Raised by an operation on a register pair named by an odd number (R14, R20, D23). Safe. -/
  | oddRegisterPair
  /-- Raised by a load whose address is no multiple of its size where `MISALIGNED_POLICY` does not allow it (D6). Safe. -/
  | misalignedAccess
  /-- Raised by a core turn when the fetched word is no instruction the source names and the turn gives no class for it
  (R82, N1). Safe. -/
  | unlistedInstruction
  deriving DecidableEq, Repr

end Sys2Proof.Machine
end

