-- ==== Sys2Proof/Machine/Flags.lean ====
section
/-! DEFINITION. The flags of the registers, the extension of narrow data, and the bit fields of CFG, MR and CR. -/

namespace Sys2Proof.Machine

/-! ### Flags of a register -/

/-- The N flag of a GPR: data bit 31 (10_state.md R12). -/
def Gpr.n (g : Gpr) : Bool := g.data.getLsbD 31

/-- The 35 bits in which a GPR is stored, C in bit 34, V in bit 33, Z in bit 32 (R11). -/
def Gpr.storage (g : Gpr) : BitVec 35 :=
  BitVec.ofBool g.c ++ BitVec.ofBool g.v ++ BitVec.ofBool g.z ++ g.data

/-- A GPR with other data and the same C, V and Z, as a load leaves it (R92). -/
def Gpr.withData (g : Gpr) (v : Word) : Gpr := { g with data := v }

/-- A GPR with the result and the status of an ALU operation (R90). -/
def Gpr.ofAlu (res : Word) (st : AluStatus) : Gpr := ⟨res, st.z, st.v, st.c⟩

/-- The N flag of an FPR: data bit 31 (10_state.md R18). -/
def Fpr.n (f : Fpr) : Bool := f.data.getLsbD 31

/-- The 35 bits in which an FPR is stored, A in bit 34, I in bit 33, Z in bit 32 (R17). -/
def Fpr.storage (f : Fpr) : BitVec 35 :=
  BitVec.ofBool f.a ++ BitVec.ofBool f.i ++ BitVec.ofBool f.z ++ f.data

/-- An FPR with other data and the same A, I and Z, as a load leaves it (R112). -/
def Fpr.withData (f : Fpr) (v : Word) : Fpr := { f with data := v }

/-- An FPR with the result and the status of an FPU operation (R110). -/
def Fpr.ofFpu (res : Word) (st : FpuStatus) : Fpr := ⟨res, st.z, st.i, st.a⟩

/-! ### The status an FPU operation reports, read by the names of the flags

Decision D20 under the format the spec assumes, IEEE 754 (PRESUMED, notes/assumptions/24.md). The status of
an operation is what its value function gives (`FPU_FLAG_FN` is open); these are the reading of D20. -/

/-- A, I and Z of a single-precision result: not a NaN, an infinity, a zero. -/
def FpuStatus.ofSingle (x : BitVec 32) : FpuStatus where
  a := !(x.extractLsb' 23 8 == 255#8 && x.extractLsb' 0 23 != 0#23)
  i := x.extractLsb' 23 8 == 255#8 && x.extractLsb' 0 23 == 0#23
  z := x.extractLsb' 0 31 == 0#31

/-- A, I and Z of a double-precision result: not a NaN, an infinity, a zero. -/
def FpuStatus.ofDouble (x : BitVec 64) : FpuStatus where
  a := !(x.extractLsb' 52 11 == 2047#11 && x.extractLsb' 0 52 != 0#52)
  i := x.extractLsb' 52 11 == 2047#11 && x.extractLsb' 0 52 == 0#52
  z := x.extractLsb' 0 63 == 0#63

/-! ### Narrow data (20_memory.md R65, 40_integer_writeback.md R93) -/

/-- A datum of n bits extended to 32 bits, with zeros or with copies of its most significant bit. -/
def Fill.extend {n : Nat} (f : Fill) (m : BitVec n) : Word :=
  match f with
  | .zeros => m.setWidth 32
  | .sign => m.signExtend 32

/-! ### CFG (10_state.md R23 to R28) -/

/-- CFG after a write of v: bits 31 to 6 and bit 3 are not stored (R132). -/
def Cfg.ofWord (v : Word) : Cfg :=
  ⟨v.getLsbD 0, v.getLsbD 1, v.getLsbD 2, v.extractLsb' 4 2⟩

/-- What a read of CFG returns: bits 31 to 6 and bit 3 are zero (R141). -/
def Cfg.toWord (c : Cfg) : Word :=
  0#26 ++ c.rounding ++ 0#1 ++ BitVec.ofBool c.autoStop ++ BitVec.ofBool c.nested ++ BitVec.ofBool c.user

/-- The rounding mode CFG bits 5 to 4 select: 00 RN, 01 RZ, 10 RP, 11 RM (R28). -/
def Cfg.roundingMode (c : Cfg) : RoundingMode :=
  if c.rounding = 0b00#2 then .rn
  else if c.rounding = 0b01#2 then .rz
  else if c.rounding = 0b10#2 then .rp
  else .rm

/-! ### MR and CR -/

/-- The global mask bit, MR bit 32 (R31). -/
def State.globalMask (s : State) : Bool := s.mr.getLsbD 32

/-- The software part of MR, bits 31 to 0 (R30). -/
def State.eventMask (s : State) : Word := s.mr.extractLsb' 0 32

/-- MR with other bits 31 to 0 and the same bit 32 (R134). -/
def withEventMask (mr : BitVec 33) (v : Word) : BitVec 33 := mr.extractLsb' 32 1 ++ v

/-- MR with another bit 32 and the same bits 31 to 0 (R31). -/
def withGlobalMask (mr : BitVec 33) (b : Bool) : BitVec 33 := BitVec.ofBool b ++ mr.extractLsb' 0 32

/-- CR with the bit of event i set (R160). -/
def withCause (cr : Word) (i : EventNum) : Word := cr ||| BitVec.twoPow 32 i.val

/-- CR with the bit of event i clear (R161). -/
def withoutCause (cr : Word) (i : EventNum) : Word := cr &&& ~~~(BitVec.twoPow 32 i.val)

/-- CR after something that raises systick or does not (R175, R160). -/
def withSystick (cr : Word) (raised : Bool) : Word :=
  if raised then withCause cr Config.systickBit else cr

end Sys2Proof.Machine
end

