-- ==== Sys2Proof/Machine/Operands.lean ====
section
/-! DEFINITION. The operand forms: single registers, register pairs and special registers. -/

namespace Sys2Proof.Machine

/-! ### General purpose registers -/

/-- GPR r as the core sees it. R0 reads as zero data where `R0_IS_ZERO` (R15, D3; notes/assumptions/6.md). -/
def State.gpr (s : State) (r : RegNum) : Gpr :=
  if r = 0 ∧ Config.r0IsZero = true then { s.gprs.get r with data := 0 } else s.gprs.get r

/-- The 32 data bits of GPR r, `R[r]` (10_state.md R11). -/
def State.gprData (s : State) (r : RegNum) : Word := (s.gpr r).data

/-- GPR r written whole. Where `R0_IS_ZERO`, R0 discards what is written (D3; notes/assumptions/6.md). -/
def State.setGpr (s : State) (r : RegNum) (g : Gpr) : State :=
  { s with gprs := if r = 0 ∧ Config.r0IsZero = true then s.gprs else s.gprs.set r.val g r.isLt }

/-! ### Floating point registers -/

/-- FPR f (10_state.md R17). -/
def State.fpr (s : State) (f : RegNum) : Fpr := s.fprs.get f

/-- The 32 data bits of FPR f, `F[f]`. -/
def State.fprData (s : State) (f : RegNum) : Word := (s.fpr f).data

/-- FPR f written whole. -/
def State.setFpr (s : State) (f : RegNum) (x : Fpr) : State :=
  { s with fprs := s.fprs.set f.val x f.isLt }

/-! ### Pairs (10_state.md R14, R20) -/

/-- The odd register of the pair named by an even number; an odd number names no pair (D23). -/
def pairOdd (r : RegNum) : Option RegNum :=
  if h : r.val % 2 = 0 then some ⟨r.val + 1, by omega⟩ else none

/-- The 64-bit value of a GPR pair: upper bits in the odd register (R14). -/
def State.gprPair (s : State) (r : RegNum) : Option DoubleWord :=
  (pairOdd r).map fun o => s.gprData o ++ s.gprData r

/-- The 64-bit value of an FPR pair: upper bits in the odd register (R20). -/
def State.fprPair (s : State) (f : RegNum) : Option DoubleWord :=
  (pairOdd f).map fun o => s.fprData o ++ s.fprData f

/-! ### The sources of an operation (40_integer_writeback.md R90, 41_float_writeback.md R110) -/

/-- What a source holds; an odd number names no pair (R14, R20, D23). -/
def State.operand (s : State) : Operand → Option OperandValue
  | .gpr r => some (.gpr (s.gpr r))
  | .gprPair r => (pairOdd r).map fun o => .gprPair (s.gpr r) (s.gpr o)
  | .fpr f => some (.fpr (s.fpr f))
  | .fprPair f => (pairOdd f).map fun o => .fprPair (s.fpr f) (s.fpr o)
  | .immediate w => some (.immediate w)

/-- What the sources of an operation hold, if each of them names something. -/
def State.operands (s : State) : List Operand → Option (List OperandValue)
  | [] => some []
  | o :: os =>
    match s.operand o, s.operands os with
    | some v, some vs => some (v :: vs)
    | _, _ => none

/-! ### The results of an operation -/

/-- A GPR takes the result and the status of an ALU operation (R90); the status is a draw (D24). -/
def State.aluWrite (s : State) (rd : RegNum) (res : Word) (st : AluStatus) : State :=
  { s.setGpr rd (Gpr.ofAlu res st) with draws := s.draws + 1 }

/-- A GPR pair takes the result of an ALU operation, the even register keeping C, V and Z and the odd one taking the
status, a draw (R91, D24, C1). -/
def State.aluWritePair (s : State) (even odd : RegNum) (res : DoubleWord) (st : AluStatus) : State :=
  { (s.setGpr even ((s.gpr even).withData (res.extractLsb' 0 32))).setGpr odd
      (Gpr.ofAlu (res.extractLsb' 32 32) st) with
    draws := s.draws + 1 }

/-- An FPR takes the result and the status of an FPU operation (R110). -/
def State.fpuWrite (s : State) (fd : RegNum) (r : FpuResult 32) : State :=
  s.setFpr fd (Fpr.ofFpu r.value r.status)

/-- An FPR pair takes the result of an FPU operation, the even register keeping A, I and Z and the odd one taking the
status (R111, C1). -/
def State.fpuWritePair (s : State) (even odd : RegNum) (r : FpuResult 64) : State :=
  (s.setFpr even ((s.fpr even).withData (r.value.extractLsb' 0 32))).setFpr odd
    (Fpr.ofFpu (r.value.extractLsb' 32 32) r.status)

/-! ### Special registers (10_state.md R22) -/

/-- The special register at an address; 0x09 and above name none (R22, R150). -/
def sprOf (a : SprAddress) : Option Spr :=
  match a.toNat with
  | 0x00 => some .cfg
  | 0x01 => some .stp
  | 0x02 => some .mr
  | 0x03 => some .ir
  | 0x04 => some .tmr
  | 0x05 => some .pwd
  | 0x06 => some .pwa
  | 0x07 => some .prd
  | 0x08 => some .pra
  | _ => none

/-- `SprRead`: the 32-bit value `movs2i` obtains (42_special_register_moves.md R141 to R149). TMR, PRD and PRA give
free values (D17, D14; notes/assumptions/15.md, 16.md). -/
def State.sprRead (s : State) : Spr → Word
  | .cfg => s.cfg.toWord
  | .stp => s.stp.setWidth 32
  | .mr => s.eventMask
  | .ir => s.ir
  | .tmr => Config.tmrSample s.tmr s.draws
  | .pwd => s.pwd
  | .pwa => s.pwa
  | .prd => Config.prdSample s.prd s.draws
  | .pra => Config.praSample s.pra s.draws

/-- `SprWrite`: the effect of `movi2s` writing v (R132 to R140). A write of 1 to CFG bit 3 is a start request to the
timer (R132, R178). -/
def State.sprWrite (s : State) (v : Word) : Spr → State
  | .cfg =>
    { s with cfg := Cfg.ofWord v, timerStarts := if v.getLsbD 3 then s.timerStarts + 1 else s.timerStarts }
  | .stp => { s with stp := v.extractLsb' 0 22 }
  | .mr => { s with mr := withEventMask s.mr v }
  | .ir => s
  | .tmr => s
  | .pwd => { s with pwd := v }
  | .pwa => { s with pwa := v }
  | .prd => s
  | .pra => s

/-- Whether a special register access is performed in the current mode: always in supervisor mode, and by
`USER_SPR_POLICY` in user mode (R153, D12; notes/assumptions/17.md). -/
def State.sprPermitted (s : State) (d : Config.SprAccess) (a : SprAddress) : Bool :=
  !s.cfg.user || Config.userSprPolicy d a == .allow

end Sys2Proof.Machine
end

