-- ==== Sys2Proof/Machine/Ops.lean ====
section
/-! DEFINITION. The operations of the machine that instructions and agents share: memory, the program counter, taking
an exception and returning from one, the timer and the other agents. -/

namespace Sys2Proof.Machine

/-! ### Memory (20_memory.md)

`d` gives what an unlisted address reads as: `Config.codeAtReset` or `Config.dataAtReset`. -/

/-- The byte at address a. -/
def Memory.read (d : Nat → Byte) : Memory → Nat → Byte
  | [], a => d a
  | (k, b) :: m, a => if k = a then b else Memory.read d m a

/-- The entry of address a removed. -/
def Memory.erase (a : Nat) : Memory → Memory
  | [] => []
  | (k, b) :: m => if k = a then m else (k, b) :: Memory.erase a m

/-- The entry (a, b) put in its place. -/
def Memory.insert (a : Nat) (b : Byte) : Memory → Memory
  | [] => [(a, b)]
  | (k, c) :: m =>
    if a < k then (a, b) :: (k, c) :: m
    else if a = k then (a, b) :: m
    else (k, c) :: Memory.insert a b m

/-- The byte b written at address a, in canonical form. -/
def Memory.write (d : Nat → Byte) (m : Memory) (a : Nat) (b : Byte) : Memory :=
  if b = d a then Memory.erase a m else Memory.insert a b m

/-- The canonical form: strictly rising addresses, and no entry equal to what an unlisted address reads as. -/
abbrev Memory.wf (d : Nat → Byte) (m : Memory) : Prop :=
  m.Pairwise (fun x y => x.1 < y.1) ∧ ∀ c ∈ m, c.2 ≠ d c.1

/-- The byte at an address of the instruction space. -/
def State.codeByte (s : State) (a : Nat) : Byte := s.code.read Config.codeAtReset a

/-- The byte at an address of data memory. -/
def State.dataByte (s : State) (a : Nat) : Byte := s.data.read Config.dataAtReset a

/-- Whether a data access of n bytes at address a is performed (D6; notes/assumptions/21.md). -/
def alignmentPermitted (n a : Nat) : Bool :=
  a % n == 0 || Config.misalignedPolicy == .allow

/-- `MemRead(a, 2)`. -/
def State.dataHalf (s : State) (a : Nat) : Half := halfOfBytes (s.dataByte a) (s.dataByte (a + 1))

/-- `MemRead(a, 4)`. -/
def State.dataWord (s : State) (a : Nat) : Word :=
  wordOfBytes (s.dataByte a) (s.dataByte (a + 1)) (s.dataByte (a + 2)) (s.dataByte (a + 3))

/-! ### The program counter and fetching (10_state.md R38, 20_memory.md R60, R61) -/

/-- The byte address of the current instruction, 4 * PC (R38). -/
def State.fetchAddress (s : State) : Nat := 4 * s.pc.toNat

/-- The four bytes of the current slot. -/
def State.fetchBytes (s : State) : List Byte :=
  [s.codeByte s.fetchAddress, s.codeByte (s.fetchAddress + 1), s.codeByte (s.fetchAddress + 2),
    s.codeByte (s.fetchAddress + 3)]

/-- The word of the current slot. -/
def State.fetchWord (s : State) : Word :=
  wordOfBytes (s.codeByte s.fetchAddress) (s.codeByte (s.fetchAddress + 1)) (s.codeByte (s.fetchAddress + 2))
    (s.codeByte (s.fetchAddress + 3))

/-- IR takes the word of the instruction that is executed (R32, D8; notes/assumptions/13.md). -/
def State.fetchToIr (s : State) : State := { s with ir := s.fetchWord }

/-- A word placed in the current slot from outside the machine (notes/assumptions/11.md). -/
def State.placeWord (s : State) (w : Word) : State :=
  { s with
    code :=
      let d := Config.codeAtReset
      let a := s.fetchAddress
      (((s.code.write d a (byteOfWord w 0)).write d (a + 1) (byteOfWord w 1)).write d (a + 2)
        (byteOfWord w 2)).write d (a + 3) (byteOfWord w 3) }

/-- The last slot of the instruction space, of which PC + 1 is not stated (R38). -/
def lastSlot : BitVec 30 := 0x3FFFFFFF#30

/-- The step to the next slot in sequence, PC + 1; refused at the last slot (R38, R151, D7). -/
def State.advance (s : State) : Host.Outcome State Fault Refusal :=
  if s.pc = lastSlot then .refused .pastLastSlot else .next { s with pc := s.pc + 1 }

/-! ### Taking an exception and returning from one (60_exceptions.md R160 to R168, R190) -/

/-- Whether MR enables event i, under `MR_SET_MEANS` (R163, D10). -/
def State.eventEnabled (s : State) (i : EventNum) : Bool :=
  match Config.mrSetMeans with
  | .enables => s.mr.getLsbD i.val
  | .disables => !s.mr.getLsbD i.val

/-- The precondition of taking event i: it is pending, the global mask is clear and the event is enabled (R190). -/
def State.mayEnter (s : State) (i : EventNum) : Bool :=
  s.cr.getLsbD i.val && !s.globalMask && s.eventEnabled i

/-- The link register that a value of ESP names (R42, R167). -/
def linkNamed (esp : BitVec 5) : Fin 32 := esp.toFin

/-- ESP after an exception entry, free on a core with the stack (`ESP_DISCIPLINE`; notes/assumptions/25.md). That ESP
moves here and on return alone is a DESIGN CHOICE (R42, N15; notes/assumptions/38.md). -/
def State.espAfterEntry (s : State) : BitVec 5 :=
  if Config.hasLrs = true then Config.entryEsp s.esp s.cfg.nested s.draws else s.esp

/-- The link register an exception entry uses: L0 without the stack (R168), else the top (R167): the one ESP names
afterwards if the top is the register last written, the one ESP names before if it is the next one to write
(notes/assumptions/38.md). -/
def State.entryLink (s : State) : Fin 32 :=
  if Config.hasLrs = true then
    match Config.espTop with
    | .lastWritten => linkNamed s.espAfterEntry
    | .nextToWrite => linkNamed s.esp
  else 0

/-- The return address of an exception, PC + 1 (R165); a free value at the last slot (notes/assumptions/19.md). -/
def State.returnAddress (s : State) : BitVec 30 :=
  if s.pc = lastSlot then Config.linkAtLastSlot s.draws else s.pc + 1

/-- Taking event i: the entry of R190, every hole of it a free value (notes/assumptions/25.md). When the architecture
changes MR bit 32 is open (`GM_UPDATE`, R164, N13): DESIGN CHOICE, here and on return and at no other time
(notes/assumptions/37.md). -/
def State.takeException (s : State) (i : EventNum) : State :=
  { s with
    links := s.links.set s.entryLink.val (Config.linkHigh s.draws ++ s.returnAddress) s.entryLink.isLt
    esp := s.espAfterEntry
    mr := withGlobalMask s.mr (Config.entryGlobalMask s.draws)
    cfg := { s.cfg with user := Config.entryUserMode s.draws }
    pc := Config.excVector i s.draws
    cr := withoutCause s.cr i
    draws := s.draws + 1 }

/-- ESP after a return, free on a core with the stack (`ESP_DISCIPLINE`; notes/assumptions/28.md). -/
def State.espAfterReturn (s : State) : BitVec 5 :=
  if Config.hasLrs = true then Config.returnEsp s.esp s.cfg.nested s.draws else s.esp

/-- The link register a return uses: L0 without the stack, else the register last written: the one ESP names before if
that is the top, the one ESP names afterwards if the top is the next one to write (R167; notes/assumptions/38.md). -/
def State.returnLink (s : State) : Fin 32 :=
  if Config.hasLrs = true then
    match Config.espTop with
    | .lastWritten => linkNamed s.esp
    | .nextToWrite => linkNamed s.espAfterReturn
  else 0

/-- Returning from an exception: PC takes the return address of the link register (R190); what else it restores is
free (notes/assumptions/28.md). That MR bit 32 may change here, on entry and at no other time is a DESIGN CHOICE
(`GM_UPDATE`, R164, N13; notes/assumptions/37.md). -/
def State.returnFromException (s : State) : State :=
  { s with
    pc := (s.links.get s.returnLink).extractLsb' 0 30
    esp := s.espAfterReturn
    mr := withGlobalMask s.mr (Config.returnGlobalMask s.draws)
    cfg := { s.cfg with user := Config.returnUserMode s.draws }
    draws := s.draws + 1 }

/-! ### The other agents -/

/-- The timer counts: down by one, raising systick when it reaches zero (R175). At zero both the next count and
whether systick is raised are free (N20, N21; notes/assumptions/26.md). -/
def State.timerCount (s : State) : State :=
  if s.tmr = 0 then
    { s with
      tmr := Config.tmrAtZero s.stp s.cfg.autoStop s.draws
      cr := withSystick s.cr (Config.systickAtZero s.stp s.cfg.autoStop s.draws)
      draws := s.draws + 1 }
  else
    { s with tmr := s.tmr - 1, cr := withSystick s.cr (s.tmr == 1) }

/-- The timer loads its counter, taking up a start request if there is one (R176, R178); the count and whether systick
is raised are free (N18, N20; notes/assumptions/26.md). -/
def State.timerLoad (s : State) : State :=
  { s with
    tmr := Config.tmrLoaded s.stp s.cfg.autoStop s.draws
    cr := withSystick s.cr (Config.systickOnLoad s.stp s.cfg.autoStop s.draws)
    timerStarts := s.timerStarts - 1
    draws := s.draws + 1 }

/-- The condition of event i is detected: its bit of CR is set (R160). -/
def State.detect (s : State) (i : EventNum) : State := { s with cr := withCause s.cr i }

/-- The handler of event i is started if event i may be taken; otherwise it stays as it is (R163, R164, R190). -/
def State.tryEnter (s : State) (i : EventNum) : State := if s.mayEnter i then s.takeException i else s

/-- The peripherals present a datum and their identification (R36, R37, R180). -/
def State.present (s : State) (datum ident : Word) : State := { s with prd := datum, pra := ident }

/-- The state with the turn that comes next taken off the list. -/
def State.takeTurn (s : State) : State := { s with turns := s.turns.tail }

/-- The turn of an agent other than the core. Of these only the start of a handler may change MR bit 32 (DESIGN CHOICE,
`GM_UPDATE`; notes/assumptions/37.md). -/
def State.agentTurn (s : State) : AgentAct → State
  | .timerCounts => s.timerCount
  | .timerLoads => s.timerLoad
  | .detects i => s.detect i
  | .enters i => s.tryEnter i
  | .presents datum ident => s.present datum ident

end Sys2Proof.Machine
end

