-- ==== Sys2Proof/Machine/Classes.lean ====
section
/-! DEFINITION. The classes of instructions the source describes without naming a member: what each does to its
destination (40_integer_writeback.md, 41_float_writeback.md). An operation is a number, its sources and an opaque
function of Config; the address of a load is its own; the next instruction is at PC + 1 (notes/assumptions/23.md). -/

namespace Sys2Proof.Machine

/-- ALU operation with a 32-bit result: the sources are read, then data and C, V, Z of rd are written (R90, D24). -/
def execAlu (op : Nat) (rd : RegNum) (srcs : List Operand) (s : State) : Host.Outcome State Fault Refusal :=
  match s.operands srcs with
  | some vs => (s.aluWrite rd (Config.aluWord op vs) (Config.aluWordStatus op vs s.draws)).advance
  | none => .refused .oddRegisterPair

/-- ALU operation with a 64-bit result on a pair (R91, D24). -/
def execAluPair (op : Nat) (rd : RegNum) (srcs : List Operand) (s : State) : Host.Outcome State Fault Refusal :=
  match pairOdd rd, s.operands srcs with
  | some odd, some vs =>
    (s.aluWritePair rd odd (Config.aluDouble op vs) (Config.aluDoubleStatus op vs s.draws)).advance
  | _, _ => .refused .oddRegisterPair

/-- What every load into a GPR does: the data are written, C, V and Z stay (R92, C1). -/
def State.loadGpr (s : State) (rd : RegNum) (d : Word) : State := s.setGpr rd ((s.gpr rd).withData d)

/-- Load of a word into a GPR (R92). -/
def execLoadWord (rd : RegNum) (addr : Nat) (s : State) : Host.Outcome State Fault Refusal :=
  if alignmentPermitted 4 addr then (s.loadGpr rd (s.dataWord addr)).advance else .refused .misalignedAccess

/-- Load of a byte into a GPR, filled with zeros or the sign (R93). -/
def execLoadByte (fill : Fill) (rd : RegNum) (addr : Nat) (s : State) : Host.Outcome State Fault Refusal :=
  (s.loadGpr rd (fill.extend (s.dataByte addr))).advance

/-- Load of a half into a GPR, filled with zeros or the sign (R93). -/
def execLoadHalf (fill : Fill) (rd : RegNum) (addr : Nat) (s : State) : Host.Outcome State Fault Refusal :=
  if alignmentPermitted 2 addr then (s.loadGpr rd (fill.extend (s.dataHalf addr))).advance
  else .refused .misalignedAccess

/-- FPU operation with a single-precision result, from its sources and the rounding mode of CFG when it executes: data
and A, I, Z of fd (R110, R113). -/
def execFpu (op : Nat) (fd : RegNum) (srcs : List Operand) (s : State) : Host.Outcome State Fault Refusal :=
  match s.operands srcs with
  | some vs => (s.fpuWrite fd (Config.fpuSingle op vs s.cfg.roundingMode)).advance
  | none => .refused .oddRegisterPair

/-- FPU operation with a double-precision result on a pair (R111, R113). -/
def execFpuPair (op : Nat) (fd : RegNum) (srcs : List Operand) (s : State) : Host.Outcome State Fault Refusal :=
  match pairOdd fd, s.operands srcs with
  | some odd, some vs => (s.fpuWritePair fd odd (Config.fpuDouble op vs s.cfg.roundingMode)).advance
  | _, _ => .refused .oddRegisterPair

/-- Load of a word into an FPR: the data are written, A, I and Z stay (R112, C1). -/
def execLoadFloat (fd : RegNum) (addr : Nat) (s : State) : Host.Outcome State Fault Refusal :=
  if alignmentPermitted 4 addr then (s.setFpr fd ((s.fpr fd).withData (s.dataWord addr))).advance
  else .refused .misalignedAccess

/-- The return from an exception (R190). -/
def execExceptionReturn (s : State) : Host.Outcome State Fault Refusal := .next s.returnFromException

/-- An instruction of a class. -/
def execClass (c : ClassOp) (s : State) : Host.Outcome State Fault Refusal :=
  match c with
  | .alu op rd srcs => execAlu op rd srcs s
  | .aluPair op rd srcs => execAluPair op rd srcs s
  | .loadWord rd addr => execLoadWord rd addr s
  | .loadByte fill rd addr => execLoadByte fill rd addr s
  | .loadHalf fill rd addr => execLoadHalf fill rd addr s
  | .fpu op fd srcs => execFpu op fd srcs s
  | .fpuPair op fd srcs => execFpuPair op fd srcs s
  | .loadFloat fd addr => execLoadFloat fd addr s
  | .exceptionReturn => execExceptionReturn s

end Sys2Proof.Machine
end

