-- ==== Sys2Proof/Machine/SpecialMoves.lean ====
section
/-! DEFINITION. The special register instructions movi2s and movs2i (42_special_register_moves.md). -/

namespace Sys2Proof.Machine

/-- The destination of `movs2i` written: data v, so N is bit 31 of v (R131, R12), and C, V and Z free (R152, D11;
notes/assumptions/14.md). -/
def State.writeMoved (s : State) (rd : RegNum) (v : Word) : State :=
  { s.setGpr rd ⟨v, Config.movs2iZero s.draws, Config.movs2iOverflow s.draws, Config.movs2iCarry s.draws⟩ with
    draws := s.draws + 1 }

/-- `movi2s a, rs`: SprWrite(a, R[rs]), then PC + 1 (R130). Refused in user mode where not allowed (R153) and for an
unmapped address (R150). -/
def execMovi2s (a : SprAddress) (rs : RegNum) (s : State) : Host.Outcome State Fault Refusal :=
  if s.sprPermitted .write a then
    match sprOf a with
    | some p => (s.sprWrite (s.gprData rs) p).advance
    | none => .refused .unmappedSpecialRegister
  else .refused .userModeAccess

/-- `movs2i rd, a`: R[rd] takes SprRead(a), then PC + 1 (R131). Refused in user mode where not allowed (R153) and for
an unmapped address (R150). -/
def execMovs2i (rd : RegNum) (a : SprAddress) (s : State) : Host.Outcome State Fault Refusal :=
  if s.sprPermitted .read a then
    match sprOf a with
    | some p => (s.writeMoved rd (s.sprRead p)).advance
    | none => .refused .unmappedSpecialRegister
  else .refused .userModeAccess

end Sys2Proof.Machine
end

