-- ==== Sys2Proof/Machine/Dispatch.lean ====
section
/-! DEFINITION. One arm for each instruction. -/

namespace Sys2Proof.Machine

def exec (i : Instr) (s : State) : Host.Outcome State Fault Refusal :=
  match i with
  | .movi2s a rs => Sys2Proof.Machine.execMovi2s a rs s
  | .movs2i rd a => Sys2Proof.Machine.execMovs2i rd a s

end Sys2Proof.Machine
end

