-- ==== Sys2Proof/Machine/Turns.lean ====
section
/-! DEFINITION. The turn of the core: one instruction fetched, decoded and executed. -/

namespace Sys2Proof.Machine

/-- The core executes the instruction at PC, IR holding its word (R32). A word of no instruction the source names is
of the class given, or refused (R82, N1). -/
def coreTurn (unlisted : Option ClassOp) (s : State) : Host.Outcome State Fault Refusal :=
  match decode s.fetchBytes with
  | .ok (i, _) => exec i s.fetchToIr
  | .error _ =>
    match unlisted with
    | some op => execClass op s.fetchToIr
    | none => .refused .unlistedInstruction

end Sys2Proof.Machine
end

