-- ==== Sys2Proof/Machine/Step.lean ====
section
/-! DEFINITION. One step: the turn of one agent (00_scope.md R6). -/

namespace Sys2Proof.Machine

/-- One step of the machine. The next turn is the one State lists, the core's when none is listed
(notes/assumptions/10.md). -/
def step (s : State) : Host.Outcome State Fault Refusal :=
  match s.turns.head? with
  | none => coreTurn none s.takeTurn
  | some (.core unlisted) => coreTurn unlisted s.takeTurn
  | some (.agent act) => .next (s.takeTurn.agentTurn act)

/-- The state with the instruction of bits w in the current slot and the next turn the core's
(notes/assumptions/11.md). -/
def State.withFetchWord (s : State) (nbits w : Nat) : State :=
  { s.placeWord (BitVec.ofNat 32 (w % 2 ^ nbits)) with turns := .core none :: s.turns }

end Sys2Proof.Machine
end

