-- ==== Sys2Proof/Safety.lean ====
section
/-! DEFINITION. The terms in which claims about runs are made: the invariant of the machine, and the premise that no
event is taken (60_exceptions.md R191). -/

namespace Sys2Proof.Machine

/-- The invariant of the machine: both memories are in canonical form and instruction memory lies in the instruction
space (R60); without `HAS_LRS` the registers of the optional stack stay at their reset values (R40, R42); a hardwired
R0 stays at its reset value (D3). -/
structure State.Inv (s : State) : Prop where
  codeWf : Memory.wf Config.codeAtReset s.code
  codeRange : ∀ c ∈ s.code, c.1 < 2 ^ 32
  dataWf : Memory.wf Config.dataAtReset s.data
  noStack : Config.hasLrs = false → s.esp = 0 ∧ ∀ j : Fin 32, j ≠ 0 → s.links.get j = 0
  hardR0 : Config.r0IsZero = true → s.gprs.get 0 = Gpr.reset

/-- A turn in which no event is detected, taken or returned from. -/
def Turn.quiet : Turn → Bool
  | .core (some .exceptionReturn) => false
  | .core _ => true
  | .agent (.presents _ _) => true
  | .agent _ => false

/-- The premise of R191 for a whole run: every turn listed is quiet. -/
def State.quiet (s : State) : Bool := s.turns.all Turn.quiet

/-- A class whose destination is an FPR (41_float_writeback.md). -/
def ClassOp.isFloat : ClassOp → Bool
  | .fpu _ _ _ => true
  | .fpuPair _ _ _ => true
  | .loadFloat _ _ => true
  | .alu _ _ _ => false
  | .aluPair _ _ _ => false
  | .loadWord _ _ => false
  | .loadByte _ _ _ => false
  | .loadHalf _ _ _ => false
  | .exceptionReturn => false

/-- A destination that keeps what is written to it: any GPR but a hardwired R0 (R15, D3; notes/assumptions/6.md). -/
def keepsWrites (rd : RegNum) : Prop := rd ≠ 0 ∨ Config.r0IsZero = false

/-- Every byte of both memories reads in t as in s. -/
def sameMemory (s t : State) : Prop := ∀ a, t.codeByte a = s.codeByte a ∧ t.dataByte a = s.dataByte a

/-- The next turn is the core's, with the class given for a word of no named instruction. -/
def State.coreNext (s : State) (unlisted : Option ClassOp) : Prop :=
  s.turns.head? = some (.core unlisted) ∨ (s.turns = [] ∧ unlisted = none)

end Sys2Proof.Machine
end

