-- ==== Sys2Proof/Certificates/Slice0/Obligations.lean ====
section
/-! DEFINITION. The statements for the provers. Each docstring names what in spec/ it formalises; an entry of
notes/assumptions/ named in it is a choice of the model's that the statement rests on. -/

open Sys2Proof Sys2Proof.Machine

/-- After reset every register holds 0, but L0 holds 0x800000000. 10_state.md R44, R45. -/
def Obligations.ResetRegistersZeroButL0 : Prop :=
  (∀ r, (State.reset.gprs.get r).data = 0) ∧ (∀ f, (State.reset.fprs.get f).data = 0) ∧
  State.reset.cfg.toWord = 0 ∧ State.reset.stp = 0 ∧ State.reset.mr = 0 ∧ State.reset.ir = 0 ∧
  State.reset.tmr = 0 ∧ State.reset.pwd = 0 ∧ State.reset.pwa = 0 ∧ State.reset.prd = 0 ∧ State.reset.pra = 0 ∧
  State.reset.pc = 0 ∧ State.reset.cr = 0 ∧ State.reset.esp = 0 ∧
  State.reset.links.get 0 = 0x800000000#36 ∧
  (State.reset.links.get 0).extractLsb' 30 6 = 0b100000#6 ∧ (State.reset.links.get 0).extractLsb' 0 30 = 0#30 ∧
  ∀ j : Fin 32, j ≠ 0 → State.reset.links.get j = 0

/-- The machine starts in supervisor mode at byte address 0, with all flags clear and nothing listed in memory. 70_reset_and_hazards.md, section 1. The flags are the spec's own inference (D2), notes/assumptions/8.md; that memory lists nothing is the model's choice, notes/assumptions/5.md. -/
def Obligations.ResetStartsInSupervisorAtZero : Prop :=
  State.reset.fetchAddress = 0 ∧ State.reset.cfg.user = false ∧ State.reset.cfg.nested = false ∧
  State.reset.cfg.autoStop = false ∧ State.reset.cfg.roundingMode = .rn ∧ State.reset.globalMask = false ∧
  State.reset.eventMask = 0 ∧ (∀ i : EventNum, State.reset.cr.getLsbD i.val = false) ∧
  (∀ r, (State.reset.gprs.get r).storage = 0) ∧ (∀ f, (State.reset.fprs.get f).storage = 0) ∧
  State.reset.code = [] ∧ State.reset.data = []

/-- The reset state meets the machine's invariant. The invariant of Sys2Proof/Safety.lean at reset. -/
def Obligations.ResetMeetsInvariant : Prop :=
  State.reset.Inv

/-- Every step keeps the machine's invariant. The headline invariant. The clauses on an absent stack and on a hardwired R0 rest on notes/assumptions/6.md and 7.md. -/
def Obligations.StepKeepsInvariant : Prop :=
  ∀ s t : State, s.Inv → step s = .next t → t.Inv

/-- Decoding the bytes of any instruction gives it back, and the bytes after it. 30_encoding.md: 32 bits in one slot, R80; the words themselves are not in the source, notes/assumptions/1.md. -/
def Obligations.DecodeReadsBackEncode : Prop :=
  ∀ (i : Instr) (rest : List Byte), decode (encodeBytes i ++ rest) = .ok (i, rest)

/-- A word decodes exactly when it is the word of an instruction, and then to that one alone. 30_encoding.md, section 3: only two instructions are named; notes/assumptions/1.md. -/
def Obligations.WordsOfNoInstructionAreRejected : Prop :=
  ∀ w : Word, (∀ i : Instr, decode (bytesOfWord w) = .ok (i, []) ↔ encode i = w) ∧
    (decode (bytesOfWord w) = .error .unlisted ↔ ∀ i : Instr, encode i ≠ w)

/-- The symbolic words of one movi2s and one movs2i decode to them. 30_encoding.md, section 3; no word can be written out bit by bit, notes/assumptions/1.md. -/
def Obligations.SampleWordsDecode : Prop :=
  decodeTableWord 32 (encode (.movi2s 0x01 1)).toNat = some (.movi2s 0x01 1) ∧
  decodeTableWord 32 (encode (.movs2i 3 0x03)).toNat = some (.movs2i 3 0x03)

/-- A core turn runs the instruction its slot decodes to, with that word in IR. 20_memory.md, section 1; IR by decision D8, notes/assumptions/13.md; turns, notes/assumptions/10.md. -/
def Obligations.StepRunsDecodedInstruction : Prop :=
  ∀ (s : State) (unlisted : Option ClassOp) (i : Instr), s.coreNext unlisted → decode s.fetchBytes = .ok (i, []) →
    step s = exec i { s with turns := s.turns.tail, ir := s.fetchWord }

/-- An instruction placed in the current slot is the one the next step runs. How a program comes to run: notes/assumptions/11.md. -/
def Obligations.PlacedWordRunsNext : Prop :=
  ∀ (s : State) (i : Instr), Memory.wf Config.codeAtReset s.code →
    step (s.withFetchWord 32 (encode i).toNat) = exec i { s.placeWord (encode i) with ir := encode i }

/-- A word of no named instruction runs as the class the turn gives, or is refused. The classes of 40 and 41, notes/assumptions/23.md. -/
def Obligations.UnlistedWordRunsGivenClass : Prop :=
  ∀ s : State, decode s.fetchBytes = .error .unlisted →
    (∀ op, s.coreNext (some op) → step s = execClass op { s with turns := s.turns.tail, ir := s.fetchWord }) ∧
    (s.coreNext none → step s = .refused .unlistedInstruction)

/-- movi2s to CFG stores bits 5, 4, 2, 1 and 0 and sends a start request for bit 3. 42_special_register_moves.md R132. -/
def Obligations.CfgWriteStoresFiveBits : Prop :=
  ∀ (rs : RegNum) (s : State), s.sprPermitted .write 0x00 = true → s.pc ≠ lastSlot →
    ∃ t, exec (.movi2s 0x00 rs) s = .next t ∧
      t = { s with
        cfg := ⟨(s.gprData rs).getLsbD 0, (s.gprData rs).getLsbD 1, (s.gprData rs).getLsbD 2,
          (s.gprData rs).extractLsb' 4 2⟩
        timerStarts := if (s.gprData rs).getLsbD 3 = true then s.timerStarts + 1 else s.timerStarts
        pc := t.pc }

/-- movi2s to STP stores the low 22 bits. 42_special_register_moves.md R133. -/
def Obligations.StpWriteKeepsLow22Bits : Prop :=
  ∀ (rs : RegNum) (s : State), s.sprPermitted .write 0x01 = true → s.pc ≠ lastSlot →
    ∃ t, exec (.movi2s 0x01 rs) s = .next t ∧ t = { s with stp := (s.gprData rs).extractLsb' 0 22, pc := t.pc }

/-- movi2s to MR writes bits 31 to 0 and leaves the global mask bit. 42_special_register_moves.md R134. -/
def Obligations.MrWriteLeavesGlobalMask : Prop :=
  ∀ (rs : RegNum) (s : State), s.sprPermitted .write 0x02 = true → s.pc ≠ lastSlot →
    ∃ t, exec (.movi2s 0x02 rs) s = .next t ∧ (∀ k, k < 32 → t.mr.getLsbD k = (s.gprData rs).getLsbD k) ∧
      t.mr.getLsbD 32 = s.mr.getLsbD 32 ∧ t = { s with mr := t.mr, pc := t.pc }

/-- movi2s to IR, TMR, PRD or PRA has no effect. 42_special_register_moves.md R135, R136, R139, R140. -/
def Obligations.ReadOnlyWritesHaveNoEffect : Prop :=
  ∀ (a : SprAddress) (rs : RegNum) (s : State), a = 0x03 ∨ a = 0x04 ∨ a = 0x07 ∨ a = 0x08 →
    s.sprPermitted .write a = true → s.pc ≠ lastSlot →
    ∃ t, exec (.movi2s a rs) s = .next t ∧ t = { s with pc := t.pc }

/-- movi2s to PWD or PWA stores the register. 42_special_register_moves.md R137, R138. -/
def Obligations.PeripheralWriteStores : Prop :=
  ∀ (rs : RegNum) (s : State), s.pc ≠ lastSlot →
    (s.sprPermitted .write 0x05 = true →
      ∃ t, exec (.movi2s 0x05 rs) s = .next t ∧ t = { s with pwd := s.gprData rs, pc := t.pc }) ∧
    (s.sprPermitted .write 0x06 = true →
      ∃ t, exec (.movi2s 0x06 rs) s = .next t ∧ t = { s with pwa := s.gprData rs, pc := t.pc })

/-- movs2i from CFG returns the five stored bits and zeros. 42_special_register_moves.md R141; a hardwired R0 is in HardwiredR0DiscardsMoves. -/
def Obligations.CfgReadReturnsStoredBits : Prop :=
  ∀ (rd : RegNum) (s : State), s.sprPermitted .read 0x00 = true → s.pc ≠ lastSlot →
    ∃ t, exec (.movs2i rd 0x00) s = .next t ∧ (keepsWrites rd →
      t.gprData rd = 0#26 ++ s.cfg.rounding ++ 0#1 ++ BitVec.ofBool s.cfg.autoStop ++ BitVec.ofBool s.cfg.nested ++
        BitVec.ofBool s.cfg.user ∧ (t.gprData rd).toNat ≤ 0x37)

/-- movs2i from STP returns its 22 bits with zeros above. 42_special_register_moves.md R142. -/
def Obligations.StpReadReturnsZeroExtended : Prop :=
  ∀ (rd : RegNum) (s : State), s.sprPermitted .read 0x01 = true → s.pc ≠ lastSlot →
    ∃ t, exec (.movs2i rd 0x01) s = .next t ∧ (keepsWrites rd →
      (t.gprData rd).toNat = s.stp.toNat ∧ (t.gprData rd).toNat ≤ 0x003FFFFF)

/-- movs2i from MR returns bits 31 to 0, whatever bit 32 is. 42_special_register_moves.md R143. -/
def Obligations.MrReadReturnsLow32Bits : Prop :=
  ∀ (rd : RegNum) (s : State) (b : Bool), s.sprPermitted .read 0x02 = true → s.pc ≠ lastSlot →
    ∃ t t', exec (.movs2i rd 0x02) s = .next t ∧
      exec (.movs2i rd 0x02) { s with mr := BitVec.ofBool b ++ s.mr.extractLsb' 0 32 } = .next t' ∧
      t'.gprData rd = t.gprData rd ∧
      (keepsWrites rd → ∀ k, k < 32 → (t.gprData rd).getLsbD k = s.mr.getLsbD k)

/-- PWD and PWA read back the last value written, or 0 if none since reset. 42_special_register_moves.md R146, R147. -/
def Obligations.PeripheralRegistersReadBackLastWrite : Prop :=
  (∀ (rd : RegNum) (s : State), s.pc ≠ lastSlot →
    (s.sprPermitted .read 0x05 = true →
      ∃ t, exec (.movs2i rd 0x05) s = .next t ∧ (keepsWrites rd → t.gprData rd = s.pwd)) ∧
    (s.sprPermitted .read 0x06 = true →
      ∃ t, exec (.movs2i rd 0x06) s = .next t ∧ (keepsWrites rd → t.gprData rd = s.pwa))) ∧
  (State.reset.pwd = 0 ∧ State.reset.pwa = 0) ∧
  (∀ s t : State, step s = .next t →
    (t.pwd = s.pwd ∨ ∃ u rs, s.coreNext u ∧ decode s.fetchBytes = .ok (.movi2s 0x05 rs, []) ∧ t.pwd = s.gprData rs) ∧
    (t.pwa = s.pwa ∨ ∃ u rs, s.coreNext u ∧ decode s.fetchBytes = .ok (.movi2s 0x06 rs, []) ∧ t.pwa = s.gprData rs))

/-- A movs2i from IR obtains its own instruction word. Decision D8, notes/assumptions/13.md. -/
def Obligations.IrReadReturnsOwnWord : Prop :=
  ∀ (s : State) (unlisted : Option ClassOp) (rd : RegNum), s.coreNext unlisted →
    decode s.fetchBytes = .ok (.movs2i rd 0x03, []) → s.sprPermitted .read 0x03 = true → s.pc ≠ lastSlot →
    ∃ t, step s = .next t ∧ t.ir = s.fetchWord ∧ (keepsWrites rd → t.gprData rd = s.fetchWord)

/-- movs2i from TMR, PRD or PRA goes on and obtains a free value. Decisions D17 and D14: draws, notes/assumptions/15.md and 16.md. -/
def Obligations.TimerAndPeripheralReadsAreFree : Prop :=
  ∀ (rd : RegNum) (s : State), s.pc ≠ lastSlot →
    (s.sprPermitted .read 0x04 = true → ∃ t, exec (.movs2i rd 0x04) s = .next t ∧
      (keepsWrites rd → t.gprData rd = Config.tmrSample s.tmr s.draws)) ∧
    (s.sprPermitted .read 0x07 = true → ∃ t, exec (.movs2i rd 0x07) s = .next t ∧
      (keepsWrites rd → t.gprData rd = Config.prdSample s.prd s.draws)) ∧
    (s.sprPermitted .read 0x08 = true → ∃ t, exec (.movs2i rd 0x08) s = .next t ∧
      (keepsWrites rd → t.gprData rd = Config.praSample s.pra s.draws))

/-- After movs2i, N is bit 31 of the value and C, V and Z are free. Decision D11, notes/assumptions/14.md. -/
def Obligations.MovedFlagsAreFree : Prop :=
  ∀ (rd : RegNum) (a : SprAddress) (s t : State), exec (.movs2i rd a) s = .next t → keepsWrites rd →
    (t.gpr rd).n = (t.gprData rd).getLsbD 31 ∧ (t.gpr rd).c = Config.movs2iCarry s.draws ∧
    (t.gpr rd).v = Config.movs2iOverflow s.draws ∧ (t.gpr rd).z = Config.movs2iZero s.draws ∧ t.draws = s.draws + 1

/-- movs2i to R0 goes on; a hardwired R0 discards the value and reads as zero. Decision D3, notes/assumptions/6.md. -/
def Obligations.HardwiredR0DiscardsMoves : Prop :=
  ∀ (a : SprAddress) (p : Spr) (s : State), s.sprPermitted .read a = true → sprOf a = some p → s.pc ≠ lastSlot →
    ∃ t, exec (.movs2i 0 a) s = .next t ∧ t.pc = s.pc + 1 ∧
      if Config.r0IsZero = true then t.gpr 0 = s.gpr 0 ∧ t.gprData 0 = 0 else t.gprData 0 = s.sprRead p

/-- movi2s and movs2i with an address above 0x08 are refused, and with no other. Decision D13, notes/assumptions/18.md. -/
def Obligations.UnmappedAddressIsRefused : Prop :=
  ∀ (a : SprAddress) (r : RegNum) (s : State),
    (s.sprPermitted .write a = true →
      (exec (.movi2s a r) s = .refused .unmappedSpecialRegister ↔ 0x08 < a.toNat)) ∧
    (s.sprPermitted .read a = true →
      (exec (.movs2i r a) s = .refused .unmappedSpecialRegister ↔ 0x08 < a.toNat))

/-- In user mode movi2s and movs2i are refused exactly where USER_SPR_POLICY does not allow them. Decision D12, notes/assumptions/17.md. -/
def Obligations.UserModeAccessFollowsPolicy : Prop :=
  ∀ (a : SprAddress) (r : RegNum) (s : State),
    (s.cfg.user = true →
      (exec (.movi2s a r) s = .refused .userModeAccess ↔ Config.userSprPolicy .write a = .refuse) ∧
      (exec (.movs2i r a) s = .refused .userModeAccess ↔ Config.userSprPolicy .read a = .refuse)) ∧
    (s.cfg.user = false →
      exec (.movi2s a r) s ≠ .refused .userModeAccess ∧ exec (.movs2i r a) s ≠ .refused .userModeAccess)

/-- movi2s and movs2i in the last slot are refused. Decision D7, notes/assumptions/19.md. -/
def Obligations.LastSlotIsRefused : Prop :=
  ∀ (a : SprAddress) (r : RegNum) (s : State), a.toNat ≤ 0x08 → s.pc = 0x3FFFFFFF#30 →
    (s.sprPermitted .write a = true → exec (.movi2s a r) s = .refused .pastLastSlot) ∧
    (s.sprPermitted .read a = true → exec (.movs2i r a) s = .refused .pastLastSlot)

/-- After movi2s or movs2i PC is PC + 1. 42_special_register_moves.md, section 4. -/
def Obligations.MovesAdvancePc : Prop :=
  ∀ (i : Instr) (s t : State), exec i s = .next t → t.pc = s.pc + 1 ∧ t.pc.toNat = s.pc.toNat + 1

/-- What movi2s leaves unchanged. 42_special_register_moves.md, sections 1 and 2. -/
def Obligations.Movi2sFrame : Prop :=
  ∀ (a : SprAddress) (rs : RegNum) (s t : State), exec (.movi2s a rs) s = .next t →
    (∀ r, t.gpr r = s.gpr r) ∧ (∀ f, t.fpr f = s.fpr f) ∧
    t.ir = s.ir ∧ t.tmr = s.tmr ∧ t.prd = s.prd ∧ t.pra = s.pra ∧ t.cr = s.cr ∧ t.links = s.links ∧ t.esp = s.esp ∧
    t.globalMask = s.globalMask ∧
    (a ≠ 0x00 → t.cfg = s.cfg ∧ t.timerStarts = s.timerStarts) ∧ (a ≠ 0x01 → t.stp = s.stp) ∧
    (a ≠ 0x02 → t.mr = s.mr) ∧ (a ≠ 0x05 → t.pwd = s.pwd) ∧ (a ≠ 0x06 → t.pwa = s.pwa) ∧
    sameMemory s t ∧ t.turns = s.turns ∧ t.draws = s.draws

/-- What movs2i leaves unchanged. 42_special_register_moves.md, sections 1 and 3. -/
def Obligations.Movs2iFrame : Prop :=
  ∀ (rd : RegNum) (a : SprAddress) (s t : State), exec (.movs2i rd a) s = .next t →
    (∀ r, r ≠ rd → t.gpr r = s.gpr r) ∧ (∀ f, t.fpr f = s.fpr f) ∧
    t.cfg = s.cfg ∧ t.stp = s.stp ∧ t.mr = s.mr ∧ t.ir = s.ir ∧ t.tmr = s.tmr ∧ t.pwd = s.pwd ∧ t.pwa = s.pwa ∧
    t.prd = s.prd ∧ t.pra = s.pra ∧ t.cr = s.cr ∧ t.links = s.links ∧ t.esp = s.esp ∧
    t.timerStarts = s.timerStarts ∧ sameMemory s t ∧ t.turns = s.turns

/-- No movi2s or movs2i can learn PC, CR, a link register, ESP or MR bit 32. 42_special_register_moves.md, section 4; the free values are the same draws in both runs, notes/assumptions/9.md. -/
def Obligations.HiddenRegistersCannotBeRead : Prop :=
  ∀ (i : Instr) (s t : State) (pc' : BitVec 30) (cr' : Word) (links' : Vector (BitVec 36) 32) (esp' : BitVec 5)
    (gm' : Bool), exec i s = .next t → pc' ≠ lastSlot →
    exec i { s with pc := pc', cr := cr', links := links', esp := esp', mr := withGlobalMask s.mr gm' } =
      .next { t with pc := pc' + 1, cr := cr', links := links', esp := esp', mr := withGlobalMask t.mr gm' }

/-- An ALU operation writes its result and its status to the destination GPR alone. 40_integer_writeback.md, section 1; that the receiving GPR takes the status is the spec's own inference there, and the operation's form is the model's, notes/assumptions/23.md. -/
def Obligations.AluResultSetsDataAndFlags : Prop :=
  ∀ (op : Nat) (rd : RegNum) (srcs : List Operand) (vs : List OperandValue) (s : State), s.pc ≠ lastSlot →
    s.operands srcs = some vs →
    ∃ t, execClass (.alu op rd srcs) s = .next t ∧
      (keepsWrites rd → t.gprData rd = Config.aluWord op vs ∧ (t.gpr rd).n = (Config.aluWord op vs).getLsbD 31 ∧
        (t.gpr rd).c = (Config.aluWordStatus op vs s.draws).c ∧ (t.gpr rd).v = (Config.aluWordStatus op vs s.draws).v ∧
        (t.gpr rd).z = (Config.aluWordStatus op vs s.draws).z) ∧
      (∀ r, r ≠ rd → t.gpr r = s.gpr r) ∧ ∀ f, t.fpr f = s.fpr f

/-- An ALU operation on a pair writes both halves, and flags of the odd register alone. 40_integer_writeback.md, section 2; an odd number is in OddPairIsRefused; the operation's form is the model's, notes/assumptions/23.md. -/
def Obligations.AluPairSetsOddFlagsOnly : Prop :=
  ∀ (op : Nat) (even odd : RegNum) (srcs : List Operand) (vs : List OperandValue) (s : State), even.val % 2 = 0 →
    odd.val = even.val + 1 → s.pc ≠ lastSlot → s.operands srcs = some vs →
    ∃ t, execClass (.aluPair op even srcs) s = .next t ∧
      (keepsWrites even → t.gprData even = (Config.aluDouble op vs).extractLsb' 0 32 ∧
        (t.gpr even).n = (Config.aluDouble op vs).getLsbD 31) ∧
      (t.gpr even).c = (s.gpr even).c ∧ (t.gpr even).v = (s.gpr even).v ∧ (t.gpr even).z = (s.gpr even).z ∧
      t.gprData odd = (Config.aluDouble op vs).extractLsb' 32 32 ∧
      (t.gpr odd).n = (Config.aluDouble op vs).getLsbD 63 ∧
      (t.gpr odd).c = (Config.aluDoubleStatus op vs s.draws).c ∧ (t.gpr odd).v = (Config.aluDoubleStatus op vs s.draws).v ∧
      (t.gpr odd).z = (Config.aluDoubleStatus op vs s.draws).z ∧
      ∀ r, r ≠ even → r ≠ odd → t.gpr r = s.gpr r

/-- A load into a GPR writes the data and N and leaves C, V and Z. 40_integer_writeback.md, section 3; the widths of a byte and a half are presumed, notes/assumptions/22.md; the form of a load, and that no other GPR changes, is the model's choice, 23.md. -/
def Obligations.LoadLeavesFlags : Prop :=
  ∀ (rd : RegNum) (addr : Nat) (fill : Fill) (s : State), s.pc ≠ lastSlot →
    ∀ (op : ClassOp) (d : Word),
      (op = .loadWord rd addr ∧ addr % 4 = 0 ∧ d = s.dataWord addr) ∨
      (op = .loadByte fill rd addr ∧ d = fill.extend (s.dataByte addr)) ∨
      (op = .loadHalf fill rd addr ∧ addr % 2 = 0 ∧ d = fill.extend (s.dataHalf addr)) →
    ∃ t, execClass op s = .next t ∧ (keepsWrites rd → t.gprData rd = d ∧ (t.gpr rd).n = d.getLsbD 31) ∧
      (t.gpr rd).c = (s.gpr rd).c ∧ (t.gpr rd).v = (s.gpr rd).v ∧ (t.gpr rd).z = (s.gpr rd).z ∧
      ∀ r, r ≠ rd → t.gpr r = s.gpr r

/-- A byte or half load fills the register with zeros or copies of the sign bit. 40_integer_writeback.md, section 3; the widths, notes/assumptions/22.md; the form of a load, 23.md. -/
def Obligations.NarrowLoadsExtend : Prop :=
  ∀ (rd : RegNum) (addr : Nat) (fill : Fill) (s : State), s.pc ≠ lastSlot →
    (∃ t, execClass (.loadByte fill rd addr) s = .next t ∧ (keepsWrites rd → ∀ k, k < 32 → (t.gprData rd).getLsbD k =
      if k < 8 then (s.dataByte addr).getLsbD k
      else decide (fill = .sign) && (s.dataByte addr).getLsbD 7)) ∧
    (addr % 2 = 0 → ∃ t, execClass (.loadHalf fill rd addr) s = .next t ∧
      (keepsWrites rd → ∀ k, k < 32 → (t.gprData rd).getLsbD k =
        if k < 16 then (s.dataHalf addr).getLsbD k
        else decide (fill = .sign) && (s.dataHalf addr).getLsbD 15))

/-- An FPU operation writes its result and its status to the destination FPR alone. 41_float_writeback.md, section 1; that the receiving FPR takes the status is the spec's own inference there, and the operation's form is the model's, notes/assumptions/23.md. -/
def Obligations.FpuResultSetsDataAndFlags : Prop :=
  ∀ (op : Nat) (fd : RegNum) (srcs : List Operand) (vs : List OperandValue) (r : FpuResult 32) (s : State),
    s.pc ≠ lastSlot → s.operands srcs = some vs → r = Config.fpuSingle op vs s.cfg.roundingMode →
    ∃ t, execClass (.fpu op fd srcs) s = .next t ∧
      t.fprData fd = r.value ∧ (t.fpr fd).n = r.value.getLsbD 31 ∧
      (t.fpr fd).a = r.status.a ∧ (t.fpr fd).i = r.status.i ∧ (t.fpr fd).z = r.status.z ∧
      (∀ f, f ≠ fd → t.fpr f = s.fpr f) ∧ ∀ r, t.gpr r = s.gpr r

/-- An FPU operation on a pair writes both halves, and flags of the odd register alone. 41_float_writeback.md, section 2; an odd number is in OddPairIsRefused; the operation's form is the model's, notes/assumptions/23.md. -/
def Obligations.FpuPairSetsOddFlagsOnly : Prop :=
  ∀ (op : Nat) (even odd : RegNum) (srcs : List Operand) (vs : List OperandValue) (r : FpuResult 64) (s : State),
    even.val % 2 = 0 → odd.val = even.val + 1 → s.pc ≠ lastSlot → s.operands srcs = some vs →
    r = Config.fpuDouble op vs s.cfg.roundingMode →
    ∃ t, execClass (.fpuPair op even srcs) s = .next t ∧
      t.fprData even = r.value.extractLsb' 0 32 ∧ (t.fpr even).n = r.value.getLsbD 31 ∧
      (t.fpr even).a = (s.fpr even).a ∧ (t.fpr even).i = (s.fpr even).i ∧ (t.fpr even).z = (s.fpr even).z ∧
      t.fprData odd = r.value.extractLsb' 32 32 ∧ (t.fpr odd).n = r.value.getLsbD 63 ∧
      (t.fpr odd).a = r.status.a ∧ (t.fpr odd).i = r.status.i ∧ (t.fpr odd).z = r.status.z ∧
      ∀ f, f ≠ even → f ≠ odd → t.fpr f = s.fpr f

/-- A load into an FPR writes the data and N and leaves A, I and Z. 41_float_writeback.md, section 3; the form of a load, and that no other FPR changes, is the model's choice, notes/assumptions/23.md. -/
def Obligations.FloatLoadLeavesFlags : Prop :=
  ∀ (fd : RegNum) (addr : Nat) (s : State), s.pc ≠ lastSlot → addr % 4 = 0 →
    ∃ t, execClass (.loadFloat fd addr) s = .next t ∧ t.fprData fd = s.dataWord addr ∧
      (t.fpr fd).n = (s.dataWord addr).getLsbD 31 ∧ (t.fpr fd).a = (s.fpr fd).a ∧ (t.fpr fd).i = (s.fpr fd).i ∧
      (t.fpr fd).z = (s.fpr fd).z ∧ ∀ f, f ≠ fd → t.fpr f = s.fpr f

/-- CFG bits 5 to 4 select the rounding of an FPU operation when it executes. 41_float_writeback.md, section 4; the operation's form is the model's, notes/assumptions/23.md. -/
def Obligations.RoundingModeSelectsOutcome : Prop :=
  (∀ (op : Nat) (fd : RegNum) (srcs : List Operand) (vs : List OperandValue) (s : State), s.pc ≠ lastSlot →
    s.operands srcs = some vs →
    ∃ t, execClass (.fpu op fd srcs) s = .next t ∧
      (s.cfg.rounding = 0b00#2 → t.fprData fd = (Config.fpuSingle op vs .rn).value) ∧
      (s.cfg.rounding = 0b01#2 → t.fprData fd = (Config.fpuSingle op vs .rz).value) ∧
      (s.cfg.rounding = 0b10#2 → t.fprData fd = (Config.fpuSingle op vs .rp).value) ∧
      (s.cfg.rounding = 0b11#2 → t.fprData fd = (Config.fpuSingle op vs .rm).value)) ∧
  ∀ (op : Nat) (even : RegNum) (srcs : List Operand) (vs : List OperandValue) (s : State), even.val % 2 = 0 →
    s.pc ≠ lastSlot → s.operands srcs = some vs →
    ∃ t, execClass (.fpuPair op even srcs) s = .next t ∧
      (s.cfg.rounding = 0b00#2 → t.fprPair even = some (Config.fpuDouble op vs .rn).value) ∧
      (s.cfg.rounding = 0b01#2 → t.fprPair even = some (Config.fpuDouble op vs .rz).value) ∧
      (s.cfg.rounding = 0b10#2 → t.fprPair even = some (Config.fpuDouble op vs .rp).value) ∧
      (s.cfg.rounding = 0b11#2 → t.fprPair even = some (Config.fpuDouble op vs .rm).value)

/-- An operation on a pair named by an odd register number is refused. Decision D23, notes/assumptions/20.md. -/
def Obligations.OddPairIsRefused : Prop :=
  (∀ (op : Nat) (r : RegNum) (srcs : List Operand) (s : State), r.val % 2 = 1 →
    execClass (.aluPair op r srcs) s = .refused .oddRegisterPair ∧
    execClass (.fpuPair op r srcs) s = .refused .oddRegisterPair) ∧
  ∀ (op : Nat) (d r : RegNum) (srcs : List Operand) (s : State), r.val % 2 = 1 →
    .gprPair r ∈ srcs ∨ .fprPair r ∈ srcs →
    execClass (.alu op d srcs) s = .refused .oddRegisterPair ∧
    execClass (.aluPair op d srcs) s = .refused .oddRegisterPair ∧
    execClass (.fpu op d srcs) s = .refused .oddRegisterPair ∧
    execClass (.fpuPair op d srcs) s = .refused .oddRegisterPair

/-- A misaligned load is refused exactly where MISALIGNED_POLICY does not allow it. Decision D6, notes/assumptions/21.md. -/
def Obligations.MisalignedLoadFollowsPolicy : Prop :=
  ∀ (r : RegNum) (addr : Nat) (fill : Fill) (s : State),
    (addr % 4 ≠ 0 →
      (execClass (.loadWord r addr) s = .refused .misalignedAccess ↔ Config.misalignedPolicy = .refuse) ∧
      (execClass (.loadFloat r addr) s = .refused .misalignedAccess ↔ Config.misalignedPolicy = .refuse)) ∧
    (addr % 2 ≠ 0 →
      (execClass (.loadHalf fill r addr) s = .refused .misalignedAccess ↔ Config.misalignedPolicy = .refuse))

/-- ALU operations and GPR loads leave the FPRs, FPU operations and FPR loads the GPRs, and all the rest. 40_integer_writeback.md, 41_float_writeback.md: the destination written. That PC is PC + 1 and nothing else changes is the model's choice, notes/assumptions/23.md. -/
def Obligations.ClassOperationFrame : Prop :=
  ∀ (c : ClassOp) (s t : State), c ≠ .exceptionReturn → execClass c s = .next t →
    t = { s with gprs := t.gprs, fprs := t.fprs, draws := t.draws, pc := s.pc + 1 } ∧ sameMemory s t ∧
    if c.isFloat = true then t.gprs = s.gprs ∧ t.draws = s.draws else t.fprs = s.fprs

/-- A pair is its two registers: low half the even one, high half the odd one. 10_state.md, sections 1 and 2. -/
def Obligations.PairAliasesItsRegisters : Prop :=
  ∀ (even odd : RegNum) (s : State) (g : Gpr) (x : Fpr), even.val % 2 = 0 → odd.val = even.val + 1 →
    s.gprPair even = some (s.gprData odd ++ s.gprData even) ∧ s.fprPair even = some (s.fprData odd ++ s.fprData even) ∧
    (s.setGpr odd g).gprPair even = some (g.data ++ s.gprData even) ∧
    (s.setFpr odd x).fprPair even = some (x.data ++ s.fprData even) ∧
    (s.setFpr even x).fprPair even = some (s.fprData odd ++ x.data)

/-- A register is stored as 35 bits: data, then Z, V or I, and C or A, with N in bit 31. 10_state.md R11, R17. -/
def Obligations.RegisterStorageLayout : Prop :=
  (∀ g : Gpr, g.storage.extractLsb' 0 32 = g.data ∧ g.storage.getLsbD 31 = g.n ∧ g.storage.getLsbD 32 = g.z ∧
    g.storage.getLsbD 33 = g.v ∧ g.storage.getLsbD 34 = g.c) ∧
  ∀ f : Fpr, f.storage.extractLsb' 0 32 = f.data ∧ f.storage.getLsbD 31 = f.n ∧ f.storage.getLsbD 32 = f.z ∧
    f.storage.getLsbD 33 = f.i ∧ f.storage.getLsbD 34 = f.a

/-- Read by their names, A, I and Z of a single-precision result are not a NaN, infinity and zero. Decision D20 under an assumed format, notes/assumptions/24.md. -/
def Obligations.NamedFpuStatusOfSingles : Prop :=
  (∀ x : BitVec 32,
    ((FpuStatus.ofSingle x).z = true ↔ x = 0x00000000#32 ∨ x = 0x80000000#32) ∧
    ((FpuStatus.ofSingle x).i = true ↔ x = 0x7F800000#32 ∨ x = 0xFF800000#32) ∧
    ((FpuStatus.ofSingle x).a = true ↔ x.toNat % 2 ^ 31 ≤ 0x7F800000)) ∧
  ∀ (fd : RegNum) (x : BitVec 32) (s : State),
    (s.fpuWrite fd ⟨x, .ofSingle x⟩).fpr fd =
      ⟨x, (FpuStatus.ofSingle x).z, (FpuStatus.ofSingle x).i, (FpuStatus.ofSingle x).a⟩

/-- A detected event's bit of CR is set and stays set until the event is handled. 60_exceptions.md, section 1; a second occurrence is the spec's own inference there. That a detection changes nothing else, MR bit 32 and ESP among it, is the model's choice, notes/assumptions/37.md, 38.md and 33.md. -/
def Obligations.DetectionSetsAndKeepsCause : Prop :=
  (∀ (s : State) (i : EventNum), s.turns.head? = some (.agent (.detects i)) →
    ∃ t, step s = .next t ∧ (∀ k : EventNum, t.cr.getLsbD k.val = (s.cr.getLsbD k.val || decide (k = i))) ∧
      t = { s with cr := t.cr, turns := s.turns.tail }) ∧
  ∀ (s t : State) (k : EventNum), step s = .next t → s.cr.getLsbD k.val = true →
    t.cr.getLsbD k.val = true ∨ (s.turns.head? = some (.agent (.enters k)) ∧ s.mayEnter k = true)

/-- Starting the handler of an event clears that event's bit of CR and no other; no software clears one. 60_exceptions.md, section 1: the start of the handler clears the bit; that the others stay is the spec's own inference. -/
def Obligations.HandlerStartClearsItsCauseOnly : Prop :=
  (∀ (s : State) (i : EventNum), s.turns.head? = some (.agent (.enters i)) → s.mayEnter i = true →
    ∃ t, step s = .next t ∧ ∀ k : EventNum, t.cr.getLsbD k.val = (s.cr.getLsbD k.val && decide (k ≠ i))) ∧
  ∀ (i : Instr) (s t : State), exec i s = .next t → t.cr = s.cr

/-- An exception entry saves PC + 1 in a link register, L0 without the stack, and nothing else writes one. 60_exceptions.md, section 3. Whose PC is saved is the model's choice, notes/assumptions/35.md; which link register, 25.md and 38.md. -/
def Obligations.EntrySavesReturnAddress : Prop :=
  (∀ (s : State) (i : EventNum), s.turns.head? = some (.agent (.enters i)) → s.mayEnter i = true → s.pc ≠ lastSlot →
    ∃ t, step s = .next t ∧ (Config.hasLrs = false → s.entryLink = 0) ∧
      (t.links.get s.entryLink).extractLsb' 0 30 = s.pc + 1 ∧
      ∀ k : Fin 32, k ≠ s.entryLink → t.links.get k = s.links.get k) ∧
  ∀ s t : State, step s = .next t → t.links ≠ s.links →
    ∃ i, s.turns.head? = some (.agent (.enters i)) ∧ s.mayEnter i = true

/-- What taking an event changes, and what it leaves. 60_exceptions.md, section 8; the holes are free values, notes/assumptions/25.md; the link register, 38.md. -/
def Obligations.EntryFrame : Prop :=
  ∀ (s : State) (i : EventNum), s.turns.head? = some (.agent (.enters i)) → s.mayEnter i = true →
    ∃ t, step s = .next t ∧ t.pc = Config.excVector i s.draws ∧ t.eventMask = s.eventMask ∧
      t.globalMask = Config.entryGlobalMask s.draws ∧ (Config.hasLrs = false → t.esp = s.esp) ∧
      (∀ k : Fin 32, k ≠ s.entryLink → t.links.get k = s.links.get k) ∧
      t = { s with links := t.links, esp := t.esp, mr := t.mr, pc := t.pc, cr := t.cr, draws := t.draws,
                   turns := s.turns.tail, cfg := { s.cfg with user := Config.entryUserMode s.draws } }

/-- While MR bit 32 is set no event is taken and every pending event stays pending. 60_exceptions.md, section 2. That the mask changes on entry and return alone is the model's choice of GM_UPDATE, notes/assumptions/37.md, 25.md and 28.md. -/
def Obligations.GlobalMaskDisablesEvents : Prop :=
  (∀ (s : State) (i : EventNum), s.globalMask = true → s.turns.head? = some (.agent (.enters i)) →
    step s = .next { s with turns := s.turns.tail }) ∧
  (∀ (s t : State) (k : EventNum), s.globalMask = true → step s = .next t →
    t.links = s.links ∧ (s.cr.getLsbD k.val = true → t.cr.getLsbD k.val = true)) ∧
  (∀ s t : State, step s = .next t → t.globalMask ≠ s.globalMask →
    (∃ i, s.turns.head? = some (.agent (.enters i))) ∨ s.turns.head? = some (.core (some .exceptionReturn))) ∧
  State.reset.globalMask = false

/-- An event is taken only if it is pending and its bit of MR enables it. 60_exceptions.md, section 2; the polarity, notes/assumptions/27.md. -/
def Obligations.DisabledEventIsNotTaken : Prop :=
  ∀ (s : State) (i : EventNum), s.turns.head? = some (.agent (.enters i)) →
    (s.cr.getLsbD i.val = false ∨ s.mr.getLsbD i.val ≠ decide (Config.mrSetMeans = .enables)) →
    step s = .next { s with turns := s.turns.tail }

/-- A return from exception puts the link register's return address in PC. 60_exceptions.md, section 8; notes/assumptions/28.md. -/
def Obligations.ReturnLoadsSavedPc : Prop :=
  ∀ s : State, ∃ t, execClass .exceptionReturn s = .next t ∧
    t.pc = (s.links.get s.returnLink).extractLsb' 0 30 ∧ (Config.hasLrs = false → s.returnLink = 0) ∧
    t.eventMask = s.eventMask ∧
    t = { s with pc := t.pc, esp := t.esp, mr := t.mr, draws := t.draws,
                 cfg := { s.cfg with user := Config.returnUserMode s.draws } }

/-- The timer counts down by one to systick; at zero, and when it loads, its count and systick are free; nothing else changes. 60_exceptions.md, section 6; the start requests, notes/assumptions/12.md; systick's bit and the free counts, 26.md. -/
def Obligations.TimerCountsDownToSystick : Prop :=
  (∀ s : State, s.turns.head? = some (.agent .timerCounts) → s.tmr ≠ 0 →
    ∃ t, step s = .next t ∧ t.tmr.toNat = s.tmr.toNat - 1 ∧
      (∀ k : EventNum, t.cr.getLsbD k.val =
        (s.cr.getLsbD k.val || (decide (t.tmr = 0) && decide (k = Config.systickBit)))) ∧
      t = { s with tmr := t.tmr, cr := t.cr, turns := s.turns.tail }) ∧
  (∀ s : State, s.turns.head? = some (.agent .timerCounts) → s.tmr = 0 →
    ∃ t, step s = .next t ∧ t.tmr = Config.tmrAtZero s.stp s.cfg.autoStop s.draws ∧
      (∀ k : EventNum, t.cr.getLsbD k.val =
        (s.cr.getLsbD k.val || (Config.systickAtZero s.stp s.cfg.autoStop s.draws && decide (k = Config.systickBit)))) ∧
      t = { s with tmr := t.tmr, cr := t.cr, draws := s.draws + 1, turns := s.turns.tail }) ∧
  ∀ s : State, s.turns.head? = some (.agent .timerLoads) →
    ∃ t, step s = .next t ∧ t.tmr = Config.tmrLoaded s.stp s.cfg.autoStop s.draws ∧
      (∀ k : EventNum, t.cr.getLsbD k.val =
        (s.cr.getLsbD k.val || (Config.systickOnLoad s.stp s.cfg.autoStop s.draws && decide (k = Config.systickBit)))) ∧
      (t.timerStarts = 0 ∧ s.timerStarts = 0 ∨ t.timerStarts + 1 = s.timerStarts) ∧
      t = { s with tmr := t.tmr, cr := t.cr, timerStarts := t.timerStarts, draws := s.draws + 1, turns := s.turns.tail }

/-- TMR changes in a turn of the timer and in no other. 60_exceptions.md, section 6. -/
def Obligations.OnlyTimerWritesTmr : Prop :=
  ∀ s t : State, step s = .next t → t.tmr ≠ s.tmr →
    s.turns.head? = some (.agent .timerCounts) ∨ s.turns.head? = some (.agent .timerLoads)

/-- PRD and PRA take what the peripherals present and nothing else writes them. 10_state.md, section 9; the value read is free by decision D14, notes/assumptions/16.md. -/
def Obligations.PeripheralsAloneSetPrdPra : Prop :=
  (∀ (s : State) (datum ident : Word), s.turns.head? = some (.agent (.presents datum ident)) →
    step s = .next { s with prd := datum, pra := ident, turns := s.turns.tail }) ∧
  (∀ s t : State, step s = .next t → (∀ datum ident, s.turns.head? ≠ some (.agent (.presents datum ident))) →
    t.prd = s.prd ∧ t.pra = s.pra) ∧
  ∀ (rd : RegNum) (s : State), s.cfg.user = false → s.pc ≠ lastSlot → keepsWrites rd →
    (∃ t, exec (.movs2i rd 0x07) s = .next t ∧ t.gprData rd = Config.prdSample s.prd s.draws) ∧
    ∃ t, exec (.movs2i rd 0x08) s = .next t ∧ t.gprData rd = Config.praSample s.pra s.draws

/-- No step changes a byte of instruction or data memory. 20_memory.md describes no store; that there is none, and no other writer, is the model's choice, notes/assumptions/4.md and 34.md. -/
def Obligations.NoStepWritesMemory : Prop :=
  ∀ s t : State, step s = .next t → ∀ a, t.codeByte a = s.codeByte a ∧ t.dataByte a = s.dataByte a

/-- After a core turn IR holds the word fetched from 4*PC, and no other turn changes IR. 10_state.md, section 7; decision D8, notes/assumptions/13.md. -/
def Obligations.CoreTurnHoldsWordInIr : Prop :=
  ∀ s t : State, step s = .next t →
    ((∃ unlisted, s.coreNext unlisted) →
      t.ir = wordOfBytes (s.codeByte (4 * s.pc.toNat)) (s.codeByte (4 * s.pc.toNat + 1)) (s.codeByte (4 * s.pc.toNat + 2))
        (s.codeByte (4 * s.pc.toNat + 3))) ∧
    ((∃ act, s.turns.head? = some (.agent act)) → t.ir = s.ir)

/-- STP and CFG bits 5, 4, 2 and 1 change only by movi2s; CFG bit 0 also on exception entry and return. 10_state.md, section 3: hardware access read only, notes/assumptions/33.md; the mode bit, 25.md. -/
def Obligations.SoftwareAloneSetsConfiguration : Prop :=
  ∀ s t : State, step s = .next t →
    (t.stp ≠ s.stp → ∃ u rs, s.coreNext u ∧ decode s.fetchBytes = .ok (.movi2s 0x01 rs, [])) ∧
    ((t.cfg.nested, t.cfg.autoStop, t.cfg.rounding) ≠ (s.cfg.nested, s.cfg.autoStop, s.cfg.rounding) →
      ∃ u rs, s.coreNext u ∧ decode s.fetchBytes = .ok (.movi2s 0x00 rs, [])) ∧
    (t.cfg.user ≠ s.cfg.user →
      (∃ u rs, s.coreNext u ∧ decode s.fetchBytes = .ok (.movi2s 0x00 rs, [])) ∨
      (∃ i, s.turns.head? = some (.agent (.enters i)) ∧ s.mayEnter i = true) ∨
      (s.turns.head? = some (.core (some .exceptionReturn)) ∧ decode s.fetchBytes = .error .unlisted))

/-- In a run in which no event is detected, taken or returned from, the exception state never changes. The premise of 60_exceptions.md, section 8, as an invariant of runs. That the global mask stays is the model's choice of GM_UPDATE, notes/assumptions/37.md; that ESP stays, of ESP_DISCIPLINE, 25.md, 28.md and 38.md. -/
def Obligations.QuietRunKeepsExceptionState : Prop :=
  ∀ (n : Nat) (s t : State), s.quiet = true → Sys2Proof.core.run n s = .next t →
    t.cr = s.cr ∧ t.links = s.links ∧ t.esp = s.esp ∧ t.globalMask = s.globalMask ∧ t.quiet = true

/-- What an FPU operation writes depends on its operands and the rounding mode alone. 41_float_writeback.md, sections 1 and 2, corner cases; the operation's form is the model's, notes/assumptions/23.md. -/
def Obligations.FpuDependsOnOperandsAndModeAlone : Prop :=
  ∀ (op : Nat) (fd : RegNum) (srcs : List Operand) (s s' t t' : State), s.operands srcs = s'.operands srcs →
    s.cfg.rounding = s'.cfg.rounding →
    (execClass (.fpu op fd srcs) s = .next t → execClass (.fpu op fd srcs) s' = .next t' → t.fpr fd = t'.fpr fd) ∧
    (execClass (.fpuPair op fd srcs) s = .next t → execClass (.fpuPair op fd srcs) s' = .next t' →
      t.fprPair fd = t'.fprPair fd ∧ ∀ odd : RegNum, odd.val = fd.val + 1 → t.fpr odd = t'.fpr odd)

/-- On a core with the stack an exception entry saves into, and a return takes from, the link register ESP names. 60_exceptions.md, section 3; notes/assumptions/38.md, 25.md, 28.md and 35.md. -/
def Obligations.EspNamesTheTop : Prop :=
  (∀ (s : State) (i : EventNum), s.turns.head? = some (.agent (.enters i)) → s.mayEnter i = true → s.pc ≠ lastSlot →
    ∃ t, step s = .next t ∧
      (t.links.get (if Config.hasLrs = true then
          (if Config.espTop = .lastWritten then t.esp.toFin else s.esp.toFin) else 0)).extractLsb' 0 30 = s.pc + 1) ∧
  ∀ s : State, ∃ t, execClass .exceptionReturn s = .next t ∧
    t.pc = (s.links.get (if Config.hasLrs = true then
      (if Config.espTop = .lastWritten then s.esp.toFin else t.esp.toFin) else 0)).extractLsb' 0 30
end

