-- ==== Sys2Proof/Laws/PerInstr.lean ====
section
/-! SUPPORT. Statements about every instruction term, one lemma a constructor. -/

namespace Sys2Proof.Laws.Numbering

/-- The number of a term fits a word and gives the term back. -/
def Statement (i : Instr) : Prop :=
  termNumber i < 2 ^ 32 ∧ termOfNumber (termNumber i) = some i

theorem movi2s (a : SprAddress) (rs : RegNum) : Statement (.movi2s a rs) := by
  have ha := a.isLt
  have hr := rs.isLt
  refine ⟨by simp only [termNumber]; omega, ?_⟩
  have h0 : (a.toNat * 32 + rs.val) / 8192 = 0 := by omega
  simp only [termNumber, termOfNumber, h0, Option.some.injEq, Instr.movi2s.injEq]
  constructor
  · apply BitVec.eq_of_toNat_eq; simp only [BitVec.toNat_ofNat]; omega
  · apply Fin.ext; simp only [Fin.val_ofNat]; omega

theorem movs2i (rd : RegNum) (a : SprAddress) : Statement (.movs2i rd a) := by
  have ha := a.isLt
  have hr := rd.isLt
  refine ⟨by simp only [termNumber]; omega, ?_⟩
  have h1 : (8192 + a.toNat * 32 + rd.val) / 8192 = 1 := by omega
  simp only [termNumber, termOfNumber, h1, Option.some.injEq, Instr.movs2i.injEq]
  constructor
  · apply Fin.ext; simp only [Fin.val_ofNat]; omega
  · apply BitVec.eq_of_toNat_eq; simp only [BitVec.toNat_ofNat]; omega

end Sys2Proof.Laws.Numbering
end

