-- ==== Sys2Proof/Laws/Decode.lean ====
section
/-! SUPPORT. Words, their bytes and the instructions they stand for. -/

namespace Sys2Proof

theorem Laws.Numbering.all (i : Instr) : Laws.Numbering.Statement i := by
  cases i with
  | movi2s a rs => exact Laws.Numbering.movi2s a rs
  | movs2i rd a => exact Laws.Numbering.movs2i rd a

/-- Only the term itself has its number. -/
theorem termNumber_of_termOfNumber {n : Nat} {i : Instr} (h : termOfNumber n = some i) : termNumber i = n := by
  unfold termOfNumber at h
  split at h <;> simp only [Option.some.injEq, reduceCtorEq] at h
  all_goals
    subst h
    simp only [termNumber, BitVec.toNat_ofNat, Fin.val_ofNat]
    omega

/-- The word of an instruction stands for it. -/
theorem decodeWord_encode (i : Instr) : decodeWord (encode i) = some i := by
  obtain ⟨hlt, hnum⟩ := Laws.Numbering.all i
  simp only [decodeWord, encode, Equiv.symm_apply_apply, BitVec.toNat_ofNat, Nat.mod_eq_of_lt hlt, hnum]

/-- Four bytes cut out of a word and put together again are the word. -/
theorem append_extract_bytes (w : Word) :
    w.extractLsb' 24 8 ++ w.extractLsb' 16 8 ++ w.extractLsb' 8 8 ++ w.extractLsb' 0 8 = w := by
  apply BitVec.eq_of_getLsbD_eq
  intro k hk
  simp only [BitVec.getLsbD_append, BitVec.getLsbD_extractLsb']
  split <;> [skip; split <;> [skip; split]]
  all_goals
    rw [decide_eq_true (by omega), Bool.true_and]
    congr 1
    omega

/-- The bytes of a word, in memory's order, make up the word. -/
theorem wordOfBytes_byteOfWord (w : Word) :
    wordOfBytes (byteOfWord w 0) (byteOfWord w 1) (byteOfWord w 2) (byteOfWord w 3) = w := by
  unfold wordOfBytes byteOfWord
  cases Config.byteOrder <;> exact append_extract_bytes w

end Sys2Proof
end

