-- ==== Sys2Proof/Laws/Memory.lean ====
section
/-! SUPPORT. The laws of memory: a byte reads as it was last written, other bytes stay, and every operation keeps the
canonical form. -/

namespace Sys2Proof.Machine

variable (d : Nat → Byte)

theorem Memory.read_insert (m : Memory) (a : Nat) (b : Byte) (x : Nat) :
    Memory.read d (Memory.insert a b m) x = if a = x then b else Memory.read d m x := by
  induction m with
  | nil => simp [Memory.insert, Memory.read]
  | cons c m ih =>
    obtain ⟨k, e⟩ := c
    unfold Memory.insert
    split
    · simp [Memory.read]
    · split
      · rename_i h; subst h; simp only [Memory.read]; split <;> rfl
      · simp only [Memory.read, ih]; split <;> [(split <;> [(exfalso; omega); rfl]); rfl]

/-- An address below every listed one reads as unlisted. -/
theorem Memory.read_below {m : Memory} {x : Nat} (h : ∀ c ∈ m, x < c.1) : Memory.read d m x = d x := by
  induction m with
  | nil => rfl
  | cons c m ih =>
    obtain ⟨k, e⟩ := c
    have hk : x < k := h (k, e) (by simp)
    rw [Memory.read, if_neg (by omega)]
    exact ih fun c hc => h c (by simp [hc])

theorem Memory.read_erase {m : Memory} (hm : m.Pairwise fun x y => x.1 < y.1) (a x : Nat) :
    Memory.read d (Memory.erase a m) x = if a = x then d a else Memory.read d m x := by
  induction m with
  | nil => simp only [Memory.erase, Memory.read]; split <;> [(rename_i h; rw [h]); rfl]
  | cons c m ih =>
    obtain ⟨k, e⟩ := c
    obtain ⟨hk, hm⟩ := List.pairwise_cons.1 hm
    by_cases hka : k = a
    · subst hka
      simp only [Memory.erase, if_true, Memory.read]
      split
      · rename_i h; subst h; exact Memory.read_below d hk
      · rfl
    · simp only [Memory.erase, hka, if_false, Memory.read, ih hm]
      split <;> [(split <;> [(exfalso; omega); rfl]); rfl]

/-- A byte reads as it was last written, and every other byte as before. -/
theorem Memory.read_write {m : Memory} (hm : m.Pairwise fun x y => x.1 < y.1) (a : Nat) (b : Byte) (x : Nat) :
    Memory.read d (Memory.write d m a b) x = if a = x then b else Memory.read d m x := by
  unfold Memory.write
  split
  · rename_i h; rw [Memory.read_erase d hm, h]
  · exact Memory.read_insert d m a b x

theorem Memory.mem_erase {m : Memory} {a : Nat} {c : Host.Cell} (h : c ∈ Memory.erase a m) : c ∈ m := by
  induction m with
  | nil => simp [Memory.erase] at h
  | cons e m ih =>
    unfold Memory.erase at h
    split at h
    · exact List.mem_cons_of_mem _ h
    · rcases List.mem_cons.1 h with h | h
      · simp [h]
      · exact List.mem_cons_of_mem _ (ih h)

theorem Memory.mem_insert {m : Memory} {a : Nat} {b : Byte} {c : Host.Cell} (h : c ∈ Memory.insert a b m) :
    c = (a, b) ∨ c ∈ m := by
  induction m with
  | nil => simpa [Memory.insert] using h
  | cons e m ih =>
    unfold Memory.insert at h
    split at h
    · simpa using h
    · split at h
      · rcases List.mem_cons.1 h with h | h
        · exact .inl h
        · exact .inr (List.mem_cons_of_mem _ h)
      · rcases List.mem_cons.1 h with h | h
        · exact .inr (by simp [h])
        · exact (ih h).imp_right (List.mem_cons_of_mem _)

/-- What is listed after a write was listed before, or is the byte written. -/
theorem Memory.mem_write {m : Memory} {a : Nat} {b : Byte} {c : Host.Cell} (h : c ∈ Memory.write d m a b) :
    c = (a, b) ∨ c ∈ m := by
  unfold Memory.write at h
  split at h
  · exact .inr (Memory.mem_erase h)
  · exact Memory.mem_insert h

theorem Memory.erase_rising {m : Memory} (a : Nat) (h : m.Pairwise fun x y => x.1 < y.1) :
    (Memory.erase a m).Pairwise fun x y => x.1 < y.1 := by
  induction m with
  | nil => exact h
  | cons e m ih =>
    obtain ⟨h1, h2⟩ := List.pairwise_cons.1 h
    unfold Memory.erase
    split
    · exact h2
    · exact List.pairwise_cons.2 ⟨fun c hc => h1 c (Memory.mem_erase hc), ih h2⟩

theorem Memory.insert_rising {m : Memory} (a : Nat) (b : Byte) (h : m.Pairwise fun x y => x.1 < y.1) :
    (Memory.insert a b m).Pairwise fun x y => x.1 < y.1 := by
  induction m with
  | nil => simp [Memory.insert]
  | cons e m ih =>
    obtain ⟨k, f⟩ := e
    obtain ⟨h1, h2⟩ := List.pairwise_cons.1 h
    unfold Memory.insert
    split
    · refine List.pairwise_cons.2 ⟨fun c hc => ?_, h⟩
      rcases List.mem_cons.1 hc with rfl | hc
      · assumption
      · have := h1 c hc; simp at this ⊢; omega
    · split
      · rename_i hak; subst hak; exact List.pairwise_cons.2 ⟨h1, h2⟩
      · refine List.pairwise_cons.2 ⟨fun c hc => ?_, ih h2⟩
        rcases Memory.mem_insert hc with rfl | hc
        · simp; omega
        · exact h1 c hc

/-- Writing keeps the canonical form. -/
theorem Memory.write_wf {m : Memory} (a : Nat) (b : Byte) (h : Memory.wf d m) : Memory.wf d (Memory.write d m a b) := by
  refine ⟨?_, fun c hc => ?_⟩
  · unfold Memory.write; split
    · exact Memory.erase_rising a h.1
    · exact Memory.insert_rising a b h.1
  · unfold Memory.write at hc
    split at hc
    · exact h.2 c (Memory.mem_erase hc)
    · rcases Memory.mem_insert hc with rfl | hc
      · assumption
      · exact h.2 c hc

/-- Memory with nothing listed is in canonical form. -/
theorem Memory.nil_wf : Memory.wf d [] := by simp [Memory.wf]

end Sys2Proof.Machine
end

