-- ==== Sys2Proof/Laws/State.lean ====
section
/-! SUPPORT. What each shared update of State leaves of each field. -/

namespace Sys2Proof.Machine

variable (s : State)

/-! ### A general purpose register written -/

@[simp] theorem State.setGpr_fprs (r : RegNum) (g : Gpr) : (s.setGpr r g).fprs = s.fprs := rfl

@[simp] theorem State.setGpr_cfg (r : RegNum) (g : Gpr) : (s.setGpr r g).cfg = s.cfg := rfl

@[simp] theorem State.setGpr_stp (r : RegNum) (g : Gpr) : (s.setGpr r g).stp = s.stp := rfl

@[simp] theorem State.setGpr_mr (r : RegNum) (g : Gpr) : (s.setGpr r g).mr = s.mr := rfl

@[simp] theorem State.setGpr_ir (r : RegNum) (g : Gpr) : (s.setGpr r g).ir = s.ir := rfl

@[simp] theorem State.setGpr_tmr (r : RegNum) (g : Gpr) : (s.setGpr r g).tmr = s.tmr := rfl

@[simp] theorem State.setGpr_pwd (r : RegNum) (g : Gpr) : (s.setGpr r g).pwd = s.pwd := rfl

@[simp] theorem State.setGpr_pwa (r : RegNum) (g : Gpr) : (s.setGpr r g).pwa = s.pwa := rfl

@[simp] theorem State.setGpr_prd (r : RegNum) (g : Gpr) : (s.setGpr r g).prd = s.prd := rfl

@[simp] theorem State.setGpr_pra (r : RegNum) (g : Gpr) : (s.setGpr r g).pra = s.pra := rfl

@[simp] theorem State.setGpr_pc (r : RegNum) (g : Gpr) : (s.setGpr r g).pc = s.pc := rfl

@[simp] theorem State.setGpr_cr (r : RegNum) (g : Gpr) : (s.setGpr r g).cr = s.cr := rfl

@[simp] theorem State.setGpr_links (r : RegNum) (g : Gpr) : (s.setGpr r g).links = s.links := rfl

@[simp] theorem State.setGpr_esp (r : RegNum) (g : Gpr) : (s.setGpr r g).esp = s.esp := rfl

@[simp] theorem State.setGpr_code (r : RegNum) (g : Gpr) : (s.setGpr r g).code = s.code := rfl

@[simp] theorem State.setGpr_data (r : RegNum) (g : Gpr) : (s.setGpr r g).data = s.data := rfl

@[simp] theorem State.setGpr_timerStarts (r : RegNum) (g : Gpr) : (s.setGpr r g).timerStarts = s.timerStarts := rfl

@[simp] theorem State.setGpr_turns (r : RegNum) (g : Gpr) : (s.setGpr r g).turns = s.turns := rfl

@[simp] theorem State.setGpr_draws (r : RegNum) (g : Gpr) : (s.setGpr r g).draws = s.draws := rfl

/-! ### A floating point register written -/

@[simp] theorem State.setFpr_gprs (r : RegNum) (x : Fpr) : (s.setFpr r x).gprs = s.gprs := rfl

@[simp] theorem State.setFpr_cfg (r : RegNum) (x : Fpr) : (s.setFpr r x).cfg = s.cfg := rfl

@[simp] theorem State.setFpr_stp (r : RegNum) (x : Fpr) : (s.setFpr r x).stp = s.stp := rfl

@[simp] theorem State.setFpr_mr (r : RegNum) (x : Fpr) : (s.setFpr r x).mr = s.mr := rfl

@[simp] theorem State.setFpr_ir (r : RegNum) (x : Fpr) : (s.setFpr r x).ir = s.ir := rfl

@[simp] theorem State.setFpr_tmr (r : RegNum) (x : Fpr) : (s.setFpr r x).tmr = s.tmr := rfl

@[simp] theorem State.setFpr_pwd (r : RegNum) (x : Fpr) : (s.setFpr r x).pwd = s.pwd := rfl

@[simp] theorem State.setFpr_pwa (r : RegNum) (x : Fpr) : (s.setFpr r x).pwa = s.pwa := rfl

@[simp] theorem State.setFpr_prd (r : RegNum) (x : Fpr) : (s.setFpr r x).prd = s.prd := rfl

@[simp] theorem State.setFpr_pra (r : RegNum) (x : Fpr) : (s.setFpr r x).pra = s.pra := rfl

@[simp] theorem State.setFpr_pc (r : RegNum) (x : Fpr) : (s.setFpr r x).pc = s.pc := rfl

@[simp] theorem State.setFpr_cr (r : RegNum) (x : Fpr) : (s.setFpr r x).cr = s.cr := rfl

@[simp] theorem State.setFpr_links (r : RegNum) (x : Fpr) : (s.setFpr r x).links = s.links := rfl

@[simp] theorem State.setFpr_esp (r : RegNum) (x : Fpr) : (s.setFpr r x).esp = s.esp := rfl

@[simp] theorem State.setFpr_code (r : RegNum) (x : Fpr) : (s.setFpr r x).code = s.code := rfl

@[simp] theorem State.setFpr_data (r : RegNum) (x : Fpr) : (s.setFpr r x).data = s.data := rfl

@[simp] theorem State.setFpr_timerStarts (r : RegNum) (x : Fpr) : (s.setFpr r x).timerStarts = s.timerStarts := rfl

@[simp] theorem State.setFpr_turns (r : RegNum) (x : Fpr) : (s.setFpr r x).turns = s.turns := rfl

@[simp] theorem State.setFpr_draws (r : RegNum) (x : Fpr) : (s.setFpr r x).draws = s.draws := rfl

/-! ### The result of an operation written -/

@[simp] theorem State.aluWrite_fprs (r : RegNum) (v : Word) (st : AluStatus) : (s.aluWrite r v st).fprs = s.fprs := rfl

@[simp] theorem State.aluWrite_cfg (r : RegNum) (v : Word) (st : AluStatus) : (s.aluWrite r v st).cfg = s.cfg := rfl

@[simp] theorem State.aluWrite_stp (r : RegNum) (v : Word) (st : AluStatus) : (s.aluWrite r v st).stp = s.stp := rfl

@[simp] theorem State.aluWrite_mr (r : RegNum) (v : Word) (st : AluStatus) : (s.aluWrite r v st).mr = s.mr := rfl

@[simp] theorem State.aluWrite_ir (r : RegNum) (v : Word) (st : AluStatus) : (s.aluWrite r v st).ir = s.ir := rfl

@[simp] theorem State.aluWrite_tmr (r : RegNum) (v : Word) (st : AluStatus) : (s.aluWrite r v st).tmr = s.tmr := rfl

@[simp] theorem State.aluWrite_pwd (r : RegNum) (v : Word) (st : AluStatus) : (s.aluWrite r v st).pwd = s.pwd := rfl

@[simp] theorem State.aluWrite_pwa (r : RegNum) (v : Word) (st : AluStatus) : (s.aluWrite r v st).pwa = s.pwa := rfl

@[simp] theorem State.aluWrite_prd (r : RegNum) (v : Word) (st : AluStatus) : (s.aluWrite r v st).prd = s.prd := rfl

@[simp] theorem State.aluWrite_pra (r : RegNum) (v : Word) (st : AluStatus) : (s.aluWrite r v st).pra = s.pra := rfl

@[simp] theorem State.aluWrite_pc (r : RegNum) (v : Word) (st : AluStatus) : (s.aluWrite r v st).pc = s.pc := rfl

@[simp] theorem State.aluWrite_cr (r : RegNum) (v : Word) (st : AluStatus) : (s.aluWrite r v st).cr = s.cr := rfl

@[simp] theorem State.aluWrite_links (r : RegNum) (v : Word) (st : AluStatus) : (s.aluWrite r v st).links = s.links := rfl

@[simp] theorem State.aluWrite_esp (r : RegNum) (v : Word) (st : AluStatus) : (s.aluWrite r v st).esp = s.esp := rfl

@[simp] theorem State.aluWrite_code (r : RegNum) (v : Word) (st : AluStatus) : (s.aluWrite r v st).code = s.code := rfl

@[simp] theorem State.aluWrite_data (r : RegNum) (v : Word) (st : AluStatus) : (s.aluWrite r v st).data = s.data := rfl

@[simp] theorem State.aluWrite_timerStarts (r : RegNum) (v : Word) (st : AluStatus) : (s.aluWrite r v st).timerStarts = s.timerStarts := rfl

@[simp] theorem State.aluWrite_turns (r : RegNum) (v : Word) (st : AluStatus) : (s.aluWrite r v st).turns = s.turns := rfl

@[simp] theorem State.aluWrite_draws (r : RegNum) (v : Word) (st : AluStatus) : (s.aluWrite r v st).draws = s.draws + 1 := rfl

@[simp] theorem State.aluWritePair_fprs (e o : RegNum) (v : DoubleWord) (st : AluStatus) : (s.aluWritePair e o v st).fprs = s.fprs := rfl

@[simp] theorem State.aluWritePair_cfg (e o : RegNum) (v : DoubleWord) (st : AluStatus) : (s.aluWritePair e o v st).cfg = s.cfg := rfl

@[simp] theorem State.aluWritePair_stp (e o : RegNum) (v : DoubleWord) (st : AluStatus) : (s.aluWritePair e o v st).stp = s.stp := rfl

@[simp] theorem State.aluWritePair_mr (e o : RegNum) (v : DoubleWord) (st : AluStatus) : (s.aluWritePair e o v st).mr = s.mr := rfl

@[simp] theorem State.aluWritePair_ir (e o : RegNum) (v : DoubleWord) (st : AluStatus) : (s.aluWritePair e o v st).ir = s.ir := rfl

@[simp] theorem State.aluWritePair_tmr (e o : RegNum) (v : DoubleWord) (st : AluStatus) : (s.aluWritePair e o v st).tmr = s.tmr := rfl

@[simp] theorem State.aluWritePair_pwd (e o : RegNum) (v : DoubleWord) (st : AluStatus) : (s.aluWritePair e o v st).pwd = s.pwd := rfl

@[simp] theorem State.aluWritePair_pwa (e o : RegNum) (v : DoubleWord) (st : AluStatus) : (s.aluWritePair e o v st).pwa = s.pwa := rfl

@[simp] theorem State.aluWritePair_prd (e o : RegNum) (v : DoubleWord) (st : AluStatus) : (s.aluWritePair e o v st).prd = s.prd := rfl

@[simp] theorem State.aluWritePair_pra (e o : RegNum) (v : DoubleWord) (st : AluStatus) : (s.aluWritePair e o v st).pra = s.pra := rfl

@[simp] theorem State.aluWritePair_pc (e o : RegNum) (v : DoubleWord) (st : AluStatus) : (s.aluWritePair e o v st).pc = s.pc := rfl

@[simp] theorem State.aluWritePair_cr (e o : RegNum) (v : DoubleWord) (st : AluStatus) : (s.aluWritePair e o v st).cr = s.cr := rfl

@[simp] theorem State.aluWritePair_links (e o : RegNum) (v : DoubleWord) (st : AluStatus) : (s.aluWritePair e o v st).links = s.links := rfl

@[simp] theorem State.aluWritePair_esp (e o : RegNum) (v : DoubleWord) (st : AluStatus) : (s.aluWritePair e o v st).esp = s.esp := rfl

@[simp] theorem State.aluWritePair_code (e o : RegNum) (v : DoubleWord) (st : AluStatus) : (s.aluWritePair e o v st).code = s.code := rfl

@[simp] theorem State.aluWritePair_data (e o : RegNum) (v : DoubleWord) (st : AluStatus) : (s.aluWritePair e o v st).data = s.data := rfl

@[simp] theorem State.aluWritePair_timerStarts (e o : RegNum) (v : DoubleWord) (st : AluStatus) : (s.aluWritePair e o v st).timerStarts = s.timerStarts := rfl

@[simp] theorem State.aluWritePair_turns (e o : RegNum) (v : DoubleWord) (st : AluStatus) : (s.aluWritePair e o v st).turns = s.turns := rfl

@[simp] theorem State.aluWritePair_draws (e o : RegNum) (v : DoubleWord) (st : AluStatus) : (s.aluWritePair e o v st).draws = s.draws + 1 := rfl

@[simp] theorem State.fpuWrite_gprs (f : RegNum) (x : FpuResult 32) : (s.fpuWrite f x).gprs = s.gprs := rfl

@[simp] theorem State.fpuWrite_cfg (f : RegNum) (x : FpuResult 32) : (s.fpuWrite f x).cfg = s.cfg := rfl

@[simp] theorem State.fpuWrite_stp (f : RegNum) (x : FpuResult 32) : (s.fpuWrite f x).stp = s.stp := rfl

@[simp] theorem State.fpuWrite_mr (f : RegNum) (x : FpuResult 32) : (s.fpuWrite f x).mr = s.mr := rfl

@[simp] theorem State.fpuWrite_ir (f : RegNum) (x : FpuResult 32) : (s.fpuWrite f x).ir = s.ir := rfl

@[simp] theorem State.fpuWrite_tmr (f : RegNum) (x : FpuResult 32) : (s.fpuWrite f x).tmr = s.tmr := rfl

@[simp] theorem State.fpuWrite_pwd (f : RegNum) (x : FpuResult 32) : (s.fpuWrite f x).pwd = s.pwd := rfl

@[simp] theorem State.fpuWrite_pwa (f : RegNum) (x : FpuResult 32) : (s.fpuWrite f x).pwa = s.pwa := rfl

@[simp] theorem State.fpuWrite_prd (f : RegNum) (x : FpuResult 32) : (s.fpuWrite f x).prd = s.prd := rfl

@[simp] theorem State.fpuWrite_pra (f : RegNum) (x : FpuResult 32) : (s.fpuWrite f x).pra = s.pra := rfl

@[simp] theorem State.fpuWrite_pc (f : RegNum) (x : FpuResult 32) : (s.fpuWrite f x).pc = s.pc := rfl

@[simp] theorem State.fpuWrite_cr (f : RegNum) (x : FpuResult 32) : (s.fpuWrite f x).cr = s.cr := rfl

@[simp] theorem State.fpuWrite_links (f : RegNum) (x : FpuResult 32) : (s.fpuWrite f x).links = s.links := rfl

@[simp] theorem State.fpuWrite_esp (f : RegNum) (x : FpuResult 32) : (s.fpuWrite f x).esp = s.esp := rfl

@[simp] theorem State.fpuWrite_code (f : RegNum) (x : FpuResult 32) : (s.fpuWrite f x).code = s.code := rfl

@[simp] theorem State.fpuWrite_data (f : RegNum) (x : FpuResult 32) : (s.fpuWrite f x).data = s.data := rfl

@[simp] theorem State.fpuWrite_timerStarts (f : RegNum) (x : FpuResult 32) : (s.fpuWrite f x).timerStarts = s.timerStarts := rfl

@[simp] theorem State.fpuWrite_turns (f : RegNum) (x : FpuResult 32) : (s.fpuWrite f x).turns = s.turns := rfl

@[simp] theorem State.fpuWrite_draws (f : RegNum) (x : FpuResult 32) : (s.fpuWrite f x).draws = s.draws := rfl

@[simp] theorem State.fpuWritePair_gprs (e o : RegNum) (x : FpuResult 64) : (s.fpuWritePair e o x).gprs = s.gprs := rfl

@[simp] theorem State.fpuWritePair_cfg (e o : RegNum) (x : FpuResult 64) : (s.fpuWritePair e o x).cfg = s.cfg := rfl

@[simp] theorem State.fpuWritePair_stp (e o : RegNum) (x : FpuResult 64) : (s.fpuWritePair e o x).stp = s.stp := rfl

@[simp] theorem State.fpuWritePair_mr (e o : RegNum) (x : FpuResult 64) : (s.fpuWritePair e o x).mr = s.mr := rfl

@[simp] theorem State.fpuWritePair_ir (e o : RegNum) (x : FpuResult 64) : (s.fpuWritePair e o x).ir = s.ir := rfl

@[simp] theorem State.fpuWritePair_tmr (e o : RegNum) (x : FpuResult 64) : (s.fpuWritePair e o x).tmr = s.tmr := rfl

@[simp] theorem State.fpuWritePair_pwd (e o : RegNum) (x : FpuResult 64) : (s.fpuWritePair e o x).pwd = s.pwd := rfl

@[simp] theorem State.fpuWritePair_pwa (e o : RegNum) (x : FpuResult 64) : (s.fpuWritePair e o x).pwa = s.pwa := rfl

@[simp] theorem State.fpuWritePair_prd (e o : RegNum) (x : FpuResult 64) : (s.fpuWritePair e o x).prd = s.prd := rfl

@[simp] theorem State.fpuWritePair_pra (e o : RegNum) (x : FpuResult 64) : (s.fpuWritePair e o x).pra = s.pra := rfl

@[simp] theorem State.fpuWritePair_pc (e o : RegNum) (x : FpuResult 64) : (s.fpuWritePair e o x).pc = s.pc := rfl

@[simp] theorem State.fpuWritePair_cr (e o : RegNum) (x : FpuResult 64) : (s.fpuWritePair e o x).cr = s.cr := rfl

@[simp] theorem State.fpuWritePair_links (e o : RegNum) (x : FpuResult 64) : (s.fpuWritePair e o x).links = s.links := rfl

@[simp] theorem State.fpuWritePair_esp (e o : RegNum) (x : FpuResult 64) : (s.fpuWritePair e o x).esp = s.esp := rfl

@[simp] theorem State.fpuWritePair_code (e o : RegNum) (x : FpuResult 64) : (s.fpuWritePair e o x).code = s.code := rfl

@[simp] theorem State.fpuWritePair_data (e o : RegNum) (x : FpuResult 64) : (s.fpuWritePair e o x).data = s.data := rfl

@[simp] theorem State.fpuWritePair_timerStarts (e o : RegNum) (x : FpuResult 64) : (s.fpuWritePair e o x).timerStarts = s.timerStarts := rfl

@[simp] theorem State.fpuWritePair_turns (e o : RegNum) (x : FpuResult 64) : (s.fpuWritePair e o x).turns = s.turns := rfl

@[simp] theorem State.fpuWritePair_draws (e o : RegNum) (x : FpuResult 64) : (s.fpuWritePair e o x).draws = s.draws := rfl

/-! ### The destination of movs2i written -/

@[simp] theorem State.writeMoved_fprs (r : RegNum) (v : Word) : (s.writeMoved r v).fprs = s.fprs := rfl

@[simp] theorem State.writeMoved_cfg (r : RegNum) (v : Word) : (s.writeMoved r v).cfg = s.cfg := rfl

@[simp] theorem State.writeMoved_stp (r : RegNum) (v : Word) : (s.writeMoved r v).stp = s.stp := rfl

@[simp] theorem State.writeMoved_mr (r : RegNum) (v : Word) : (s.writeMoved r v).mr = s.mr := rfl

@[simp] theorem State.writeMoved_ir (r : RegNum) (v : Word) : (s.writeMoved r v).ir = s.ir := rfl

@[simp] theorem State.writeMoved_tmr (r : RegNum) (v : Word) : (s.writeMoved r v).tmr = s.tmr := rfl

@[simp] theorem State.writeMoved_pwd (r : RegNum) (v : Word) : (s.writeMoved r v).pwd = s.pwd := rfl

@[simp] theorem State.writeMoved_pwa (r : RegNum) (v : Word) : (s.writeMoved r v).pwa = s.pwa := rfl

@[simp] theorem State.writeMoved_prd (r : RegNum) (v : Word) : (s.writeMoved r v).prd = s.prd := rfl

@[simp] theorem State.writeMoved_pra (r : RegNum) (v : Word) : (s.writeMoved r v).pra = s.pra := rfl

@[simp] theorem State.writeMoved_pc (r : RegNum) (v : Word) : (s.writeMoved r v).pc = s.pc := rfl

@[simp] theorem State.writeMoved_cr (r : RegNum) (v : Word) : (s.writeMoved r v).cr = s.cr := rfl

@[simp] theorem State.writeMoved_links (r : RegNum) (v : Word) : (s.writeMoved r v).links = s.links := rfl

@[simp] theorem State.writeMoved_esp (r : RegNum) (v : Word) : (s.writeMoved r v).esp = s.esp := rfl

@[simp] theorem State.writeMoved_code (r : RegNum) (v : Word) : (s.writeMoved r v).code = s.code := rfl

@[simp] theorem State.writeMoved_data (r : RegNum) (v : Word) : (s.writeMoved r v).data = s.data := rfl

@[simp] theorem State.writeMoved_timerStarts (r : RegNum) (v : Word) : (s.writeMoved r v).timerStarts = s.timerStarts := rfl

@[simp] theorem State.writeMoved_turns (r : RegNum) (v : Word) : (s.writeMoved r v).turns = s.turns := rfl

@[simp] theorem State.writeMoved_draws (r : RegNum) (v : Word) : (s.writeMoved r v).draws = s.draws + 1 := rfl

/-! ### The fetched word held in IR -/

@[simp] theorem State.fetchToIr_gprs : s.fetchToIr.gprs = s.gprs := rfl

@[simp] theorem State.fetchToIr_fprs : s.fetchToIr.fprs = s.fprs := rfl

@[simp] theorem State.fetchToIr_cfg : s.fetchToIr.cfg = s.cfg := rfl

@[simp] theorem State.fetchToIr_stp : s.fetchToIr.stp = s.stp := rfl

@[simp] theorem State.fetchToIr_mr : s.fetchToIr.mr = s.mr := rfl

@[simp] theorem State.fetchToIr_tmr : s.fetchToIr.tmr = s.tmr := rfl

@[simp] theorem State.fetchToIr_pwd : s.fetchToIr.pwd = s.pwd := rfl

@[simp] theorem State.fetchToIr_pwa : s.fetchToIr.pwa = s.pwa := rfl

@[simp] theorem State.fetchToIr_prd : s.fetchToIr.prd = s.prd := rfl

@[simp] theorem State.fetchToIr_pra : s.fetchToIr.pra = s.pra := rfl

@[simp] theorem State.fetchToIr_pc : s.fetchToIr.pc = s.pc := rfl

@[simp] theorem State.fetchToIr_cr : s.fetchToIr.cr = s.cr := rfl

@[simp] theorem State.fetchToIr_links : s.fetchToIr.links = s.links := rfl

@[simp] theorem State.fetchToIr_esp : s.fetchToIr.esp = s.esp := rfl

@[simp] theorem State.fetchToIr_code : s.fetchToIr.code = s.code := rfl

@[simp] theorem State.fetchToIr_data : s.fetchToIr.data = s.data := rfl

@[simp] theorem State.fetchToIr_timerStarts : s.fetchToIr.timerStarts = s.timerStarts := rfl

@[simp] theorem State.fetchToIr_turns : s.fetchToIr.turns = s.turns := rfl

@[simp] theorem State.fetchToIr_draws : s.fetchToIr.draws = s.draws := rfl

@[simp] theorem State.fetchToIr_ir : s.fetchToIr.ir = s.fetchWord := rfl

/-! ### The next turn taken off -/

@[simp] theorem State.takeTurn_gprs : s.takeTurn.gprs = s.gprs := rfl

@[simp] theorem State.takeTurn_fprs : s.takeTurn.fprs = s.fprs := rfl

@[simp] theorem State.takeTurn_cfg : s.takeTurn.cfg = s.cfg := rfl

@[simp] theorem State.takeTurn_stp : s.takeTurn.stp = s.stp := rfl

@[simp] theorem State.takeTurn_mr : s.takeTurn.mr = s.mr := rfl

@[simp] theorem State.takeTurn_ir : s.takeTurn.ir = s.ir := rfl

@[simp] theorem State.takeTurn_tmr : s.takeTurn.tmr = s.tmr := rfl

@[simp] theorem State.takeTurn_pwd : s.takeTurn.pwd = s.pwd := rfl

@[simp] theorem State.takeTurn_pwa : s.takeTurn.pwa = s.pwa := rfl

@[simp] theorem State.takeTurn_prd : s.takeTurn.prd = s.prd := rfl

@[simp] theorem State.takeTurn_pra : s.takeTurn.pra = s.pra := rfl

@[simp] theorem State.takeTurn_pc : s.takeTurn.pc = s.pc := rfl

@[simp] theorem State.takeTurn_cr : s.takeTurn.cr = s.cr := rfl

@[simp] theorem State.takeTurn_links : s.takeTurn.links = s.links := rfl

@[simp] theorem State.takeTurn_esp : s.takeTurn.esp = s.esp := rfl

@[simp] theorem State.takeTurn_code : s.takeTurn.code = s.code := rfl

@[simp] theorem State.takeTurn_data : s.takeTurn.data = s.data := rfl

@[simp] theorem State.takeTurn_timerStarts : s.takeTurn.timerStarts = s.timerStarts := rfl

@[simp] theorem State.takeTurn_draws : s.takeTurn.draws = s.draws := rfl

@[simp] theorem State.takeTurn_turns : s.takeTurn.turns = s.turns.tail := rfl

/-! ### A special register written -/

@[simp] theorem State.sprWrite_gprs (v : Word) (p : Spr) : (s.sprWrite v p).gprs = s.gprs := by
  cases p <;> rfl

@[simp] theorem State.sprWrite_fprs (v : Word) (p : Spr) : (s.sprWrite v p).fprs = s.fprs := by
  cases p <;> rfl

@[simp] theorem State.sprWrite_ir (v : Word) (p : Spr) : (s.sprWrite v p).ir = s.ir := by
  cases p <;> rfl

@[simp] theorem State.sprWrite_tmr (v : Word) (p : Spr) : (s.sprWrite v p).tmr = s.tmr := by
  cases p <;> rfl

@[simp] theorem State.sprWrite_prd (v : Word) (p : Spr) : (s.sprWrite v p).prd = s.prd := by
  cases p <;> rfl

@[simp] theorem State.sprWrite_pra (v : Word) (p : Spr) : (s.sprWrite v p).pra = s.pra := by
  cases p <;> rfl

@[simp] theorem State.sprWrite_pc (v : Word) (p : Spr) : (s.sprWrite v p).pc = s.pc := by
  cases p <;> rfl

@[simp] theorem State.sprWrite_cr (v : Word) (p : Spr) : (s.sprWrite v p).cr = s.cr := by
  cases p <;> rfl

@[simp] theorem State.sprWrite_links (v : Word) (p : Spr) : (s.sprWrite v p).links = s.links := by
  cases p <;> rfl

@[simp] theorem State.sprWrite_esp (v : Word) (p : Spr) : (s.sprWrite v p).esp = s.esp := by
  cases p <;> rfl

@[simp] theorem State.sprWrite_code (v : Word) (p : Spr) : (s.sprWrite v p).code = s.code := by
  cases p <;> rfl

@[simp] theorem State.sprWrite_data (v : Word) (p : Spr) : (s.sprWrite v p).data = s.data := by
  cases p <;> rfl

@[simp] theorem State.sprWrite_turns (v : Word) (p : Spr) : (s.sprWrite v p).turns = s.turns := by
  cases p <;> rfl

@[simp] theorem State.sprWrite_draws (v : Word) (p : Spr) : (s.sprWrite v p).draws = s.draws := by
  cases p <;> rfl

end Sys2Proof.Machine
end

