-- ==== Sys2Proof/Laws/Registers.lean ====
section
/-! SUPPORT. Reading registers after writing them, and the bits of MR and CR. -/

namespace Sys2Proof.Machine

/-! ### General purpose and floating point registers -/

/-- Writing a GPR leaves every other one. -/
theorem State.gpr_setGpr_other (s : State) {r q : RegNum} (g : Gpr) (h : q ≠ r) :
    (s.setGpr r g).gpr q = s.gpr q := by
  have hv : r.val ≠ q.val := fun e => h (Fin.ext e.symm)
  have hg : (s.setGpr r g).gprs.get q = s.gprs.get q := by
    unfold State.setGpr
    split <;> simp [Vector.get_eq_getElem, hv]
  simp only [State.gpr, hg]

/-- A written GPR holds what was written, but for a hardwired R0. -/
theorem State.gpr_setGpr_same (s : State) (r : RegNum) (g : Gpr) :
    (s.setGpr r g).gpr r = if r = 0 ∧ Config.r0IsZero = true then s.gpr r else g := by
  by_cases h : r = 0 ∧ Config.r0IsZero = true
  · simp only [State.gpr, State.setGpr, if_pos h]
  · simp only [State.gpr, State.setGpr, if_neg h]
    simp [Vector.get_eq_getElem]

/-- A hardwired R0 reads as zero. -/
theorem State.gprData_hardwired (s : State) (h : Config.r0IsZero = true) : s.gprData 0 = 0 := by
  simp [State.gprData, State.gpr, h]

/-- An FPR after a write. -/
theorem State.fpr_setFpr (s : State) (r q : RegNum) (x : Fpr) :
    (s.setFpr r x).fpr q = if q = r then x else s.fpr q := by
  by_cases h : q = r
  · subst h; simp [State.setFpr, State.fpr, Vector.get_eq_getElem]
  · have hv : r.val ≠ q.val := fun e => h (Fin.ext e.symm)
    simp [State.setFpr, State.fpr, Vector.get_eq_getElem, h, hv]

/-- A register depends on the register file alone. -/
theorem State.gpr_congr {s t : State} (h : s.gprs = t.gprs) (r : RegNum) : s.gpr r = t.gpr r := by
  simp [State.gpr, h]

/-- The odd register of a pair is not the even one. -/
theorem pairOdd_ne {r o : RegNum} (h : pairOdd r = some o) : o ≠ r := by
  unfold pairOdd at h
  split at h <;> simp only [Option.some.injEq, reduceCtorEq] at h
  intro e
  have := congrArg Fin.val (h.trans e)
  simp at this

/-- The odd register of a pair is never R0. -/
theorem pairOdd_ne_zero {r o : RegNum} (h : pairOdd r = some o) : o ≠ 0 := by
  unfold pairOdd at h
  split at h <;> simp only [Option.some.injEq, reduceCtorEq] at h
  intro e
  have := congrArg Fin.val (h.trans e)
  simp at this

/-! ### The results of operations -/

/-- Every GPR after an ALU operation's result is written. -/
theorem State.gpr_aluWrite (s : State) (rd q : RegNum) (res : Word) (st : AluStatus) :
    (s.aluWrite rd res st).gpr q =
      if q = rd then (if rd = 0 ∧ Config.r0IsZero = true then s.gpr rd else Gpr.ofAlu res st) else s.gpr q := by
  split
  · subst q; exact s.gpr_setGpr_same rd _
  · exact s.gpr_setGpr_other _ ‹_›

/-- Every GPR after an ALU operation's result is written to a pair. -/
theorem State.gpr_aluWritePair (s : State) {even odd : RegNum} (h : pairOdd even = some odd) (q : RegNum)
    (res : DoubleWord) (st : AluStatus) :
    (s.aluWritePair even odd res st).gpr q =
      if q = odd then Gpr.ofAlu (res.extractLsb' 32 32) st
      else if q = even then
        (if even = 0 ∧ Config.r0IsZero = true then s.gpr even else (s.gpr even).withData (res.extractLsb' 0 32))
      else s.gpr q := by
  by_cases ho : q = odd
  · subst q
    rw [if_pos rfl]
    exact (State.gpr_setGpr_same _ odd _).trans (if_neg fun e => pairOdd_ne_zero h e.1)
  · rw [if_neg ho]
    refine (State.gpr_setGpr_other _ _ ho).trans ?_
    split
    · subst q; exact s.gpr_setGpr_same even _
    · exact s.gpr_setGpr_other _ ‹_›

/-- Every FPR after an FPU operation's result is written. -/
theorem State.fpr_fpuWrite (s : State) (fd q : RegNum) (r : FpuResult 32) :
    (s.fpuWrite fd r).fpr q = if q = fd then Fpr.ofFpu r.value r.status else s.fpr q :=
  s.fpr_setFpr fd q _

/-- Every FPR after an FPU operation's result is written to a pair. -/
theorem State.fpr_fpuWritePair (s : State) (even odd q : RegNum) (r : FpuResult 64) :
    (s.fpuWritePair even odd r).fpr q =
      if q = odd then Fpr.ofFpu (r.value.extractLsb' 32 32) r.status
      else if q = even then (s.fpr even).withData (r.value.extractLsb' 0 32) else s.fpr q :=
  (State.fpr_setFpr _ odd q _).trans (by rw [State.fpr_setFpr])

/-! ### Special register addresses -/

/-- The address of a special register (10_state.md R22). -/
def Spr.address : Spr → SprAddress
  | .cfg => 0x00
  | .stp => 0x01
  | .mr => 0x02
  | .ir => 0x03
  | .tmr => 0x04
  | .pwd => 0x05
  | .pwa => 0x06
  | .prd => 0x07
  | .pra => 0x08

/-- Every special register is at its own address alone. -/
theorem sprOf_eq_some_iff (a : SprAddress) (p : Spr) : sprOf a = some p ↔ a = p.address := by
  revert a
  cases p <;> decide

/-- An address names a special register exactly when it is at most 0x08 (R22, R150). -/
theorem sprOf_eq_none_iff (a : SprAddress) : sprOf a = none ↔ 0x08 < a.toNat := by
  unfold sprOf
  split <;> simp_all
  omega

/-! ### MR -/

theorem withEventMask_bit (mr : BitVec 33) (v : Word) (k : Nat) :
    (withEventMask mr v).getLsbD k = if k < 32 then v.getLsbD k else (mr.extractLsb' 32 1).getLsbD (k - 32) :=
  BitVec.getLsbD_append

theorem withGlobalMask_bit (mr : BitVec 33) (b : Bool) (k : Nat) :
    (withGlobalMask mr b).getLsbD k =
      if k < 32 then (mr.extractLsb' 0 32).getLsbD k else (BitVec.ofBool b).getLsbD (k - 32) :=
  BitVec.getLsbD_append

/-- Bits 31 to 0 of MR are what was written. -/
theorem eventMask_withEventMask (mr : BitVec 33) (v : Word) : (withEventMask mr v).extractLsb' 0 32 = v := by
  apply BitVec.eq_of_getLsbD_eq
  intro k hk
  rw [BitVec.getLsbD_extractLsb', Nat.zero_add, withEventMask_bit, if_pos hk, decide_eq_true hk, Bool.true_and]

/-- Bit 32 of MR stays when bits 31 to 0 are written. -/
theorem globalBit_withEventMask (mr : BitVec 33) (v : Word) : (withEventMask mr v).getLsbD 32 = mr.getLsbD 32 := by
  rw [withEventMask_bit, if_neg (by decide), BitVec.getLsbD_extractLsb']
  rfl

/-- Bits 31 to 0 of MR stay when bit 32 is written. -/
theorem eventMask_withGlobalMask (mr : BitVec 33) (b : Bool) :
    (withGlobalMask mr b).extractLsb' 0 32 = mr.extractLsb' 0 32 := by
  apply BitVec.eq_of_getLsbD_eq
  intro k hk
  rw [BitVec.getLsbD_extractLsb', Nat.zero_add, withGlobalMask_bit, if_pos hk, decide_eq_true hk, Bool.true_and]

/-- Bit 32 of MR is what was written. -/
theorem globalBit_withGlobalMask (mr : BitVec 33) (b : Bool) : (withGlobalMask mr b).getLsbD 32 = b := by
  rw [withGlobalMask_bit, if_neg (by decide)]
  cases b <;> rfl

/-- Writing bit 32 of MR and then bits 31 to 0 is doing it in the other order. -/
theorem withEventMask_withGlobalMask (mr : BitVec 33) (b : Bool) (v : Word) :
    withEventMask (withGlobalMask mr b) v = withGlobalMask (withEventMask mr v) b := by
  apply BitVec.eq_of_getLsbD_eq
  intro k hk
  rw [withEventMask_bit, withGlobalMask_bit, eventMask_withEventMask]
  split
  · rfl
  · obtain rfl : k = 32 := by omega
    rw [BitVec.getLsbD_extractLsb']
    exact (globalBit_withGlobalMask mr b).trans (by cases b <;> rfl)

/-! ### CR -/

theorem withCause_bit (cr : Word) (i k : EventNum) :
    (withCause cr i).getLsbD k.val = (cr.getLsbD k.val || decide (k = i)) := by
  have := k.isLt
  simp only [withCause, BitVec.getLsbD_or, BitVec.getLsbD_twoPow, Fin.ext_iff, eq_comm (a := i.val), i.isLt,
    decide_true, Bool.true_and]

theorem withoutCause_bit (cr : Word) (i k : EventNum) :
    (withoutCause cr i).getLsbD k.val = (cr.getLsbD k.val && decide (k ≠ i)) := by
  have := k.isLt
  simp only [withoutCause, BitVec.getLsbD_and, BitVec.getLsbD_not, BitVec.getLsbD_twoPow, ne_eq, Fin.ext_iff,
    eq_comm (a := i.val), i.isLt, k.isLt, decide_true, Bool.true_and, decide_not]

/-- CR after something that raises systick or does not: only systick's bit can be gained. -/
theorem withSystick_bit (cr : Word) (b : Bool) (k : EventNum) :
    (withSystick cr b).getLsbD k.val = (cr.getLsbD k.val || (b && decide (k = Config.systickBit))) := by
  cases b
  · simp [withSystick]
  · simp only [withSystick, if_true, Bool.true_and]
    exact withCause_bit _ _ _

/-- Raising systick clears no bit of CR. -/
theorem withSystick_keeps {cr : Word} {b : Bool} {k : EventNum} (h : cr.getLsbD k.val = true) :
    (withSystick cr b).getLsbD k.val = true := by
  rw [withSystick_bit, h, Bool.true_or]

end Sys2Proof.Machine
end

