-- ==== Sys2Proof/Laws/Ops.lean ====
section
/-! SUPPORT. What each shared operation and each meaning can do, said once. -/

namespace Sys2Proof.Machine

/-- The sequential step goes on exactly before the last slot, and changes PC alone. -/
theorem State.advance_eq_next {s t : State} :
    s.advance = .next t ↔ s.pc ≠ lastSlot ∧ t = { s with pc := s.pc + 1 } := by
  unfold State.advance
  split <;> simp_all [eq_comm]

/-- The sequential step is refused exactly at the last slot, and for that reason. -/
theorem State.advance_eq_refused {s : State} {r : Refusal} :
    s.advance = .refused r ↔ s.pc = lastSlot ∧ r = .pastLastSlot := by
  unfold State.advance
  split <;> simp_all [eq_comm]

/-- The sequential step before the last slot. -/
theorem State.advance_of_ne {s : State} (h : s.pc ≠ lastSlot) : s.advance = .next { s with pc := s.pc + 1 } :=
  State.advance_eq_next.2 ⟨h, rfl⟩

/-- All that `movi2s` can do when it goes on. -/
theorem execMovi2s_eq_next {a : SprAddress} {rs : RegNum} {s t : State} :
    execMovi2s a rs s = .next t ↔
      ∃ p, s.sprPermitted .write a = true ∧ sprOf a = some p ∧ s.pc ≠ lastSlot ∧
        t = { s.sprWrite (s.gprData rs) p with pc := s.pc + 1 } := by
  unfold execMovi2s
  cases hp : s.sprPermitted .write a <;> cases ho : sprOf a <;> simp [State.advance_eq_next]

/-- All that `movs2i` can do when it goes on. -/
theorem execMovs2i_eq_next {rd : RegNum} {a : SprAddress} {s t : State} :
    execMovs2i rd a s = .next t ↔
      ∃ p, s.sprPermitted .read a = true ∧ sprOf a = some p ∧ s.pc ≠ lastSlot ∧
        t = { s.writeMoved rd (s.sprRead p) with pc := s.pc + 1 } := by
  unfold execMovs2i
  cases hp : s.sprPermitted .read a <;> cases ho : sprOf a <;> simp [State.advance_eq_next]

/-- A special register access is performed in supervisor mode. -/
theorem State.sprPermitted_supervisor {s : State} (h : s.cfg.user = false) (d : Config.SprAccess) (a : SprAddress) :
    s.sprPermitted d a = true := by
  simp [State.sprPermitted, h]

/-- A data access is performed when it is aligned or the policy allows it. -/
theorem alignmentPermitted_iff (n a : Nat) :
    alignmentPermitted n a = true ↔ a % n = 0 ∨ Config.misalignedPolicy = .allow := by
  simp [alignmentPermitted]

/-- The sources of an operation can be read exactly when none is a pair named by an odd number. -/
theorem State.operands_eq_none_iff {s : State} {srcs : List Operand} :
    s.operands srcs = none ↔ ∃ r : RegNum, r.val % 2 = 1 ∧ (.gprPair r ∈ srcs ∨ .fprPair r ∈ srcs) := by
  induction srcs with
  | nil => simp [State.operands]
  | cons o os ih =>
    have hp : ∀ r, pairOdd r = none ↔ r.val % 2 = 1 := by
      intro r
      unfold pairOdd
      split <;> simp <;> omega
    have ho : s.operand o = none ↔ ∃ r : RegNum, r.val % 2 = 1 ∧ (.gprPair r = o ∨ .fprPair r = o) := by
      cases o <;> simp [State.operand, hp, and_comm]
    have hc : s.operands (o :: os) = none ↔ s.operand o = none ∨ s.operands os = none := by
      rw [State.operands]
      cases s.operand o <;> cases s.operands os <;> simp
    rw [hc, ho, ih]
    simp only [List.mem_cons]
    constructor
    · rintro (⟨r, h, h'⟩ | ⟨r, h, h'⟩)
      · exact ⟨r, h, h'.imp .inl .inl⟩
      · exact ⟨r, h, h'.imp .inr .inr⟩
    · rintro ⟨r, h, (h' | h') | (h' | h')⟩
      · exact .inl ⟨r, h, .inl h'⟩
      · exact .inr ⟨r, h, .inl h'⟩
      · exact .inl ⟨r, h, .inr h'⟩
      · exact .inr ⟨r, h, .inr h'⟩

/-- All that an ALU operation can do when it goes on. -/
theorem execAlu_eq_next {op : Nat} {rd : RegNum} {srcs : List Operand} {s t : State} :
    execAlu op rd srcs s = .next t ↔ ∃ vs, s.operands srcs = some vs ∧ s.pc ≠ lastSlot ∧
      t = { s.aluWrite rd (Config.aluWord op vs) (Config.aluWordStatus op vs s.draws) with pc := s.pc + 1 } := by
  unfold execAlu
  cases s.operands srcs <;> simp [State.advance_eq_next]

/-- All that an ALU operation on a pair can do when it goes on. -/
theorem execAluPair_eq_next {op : Nat} {rd : RegNum} {srcs : List Operand} {s t : State} :
    execAluPair op rd srcs s = .next t ↔ ∃ odd vs, pairOdd rd = some odd ∧ s.operands srcs = some vs ∧
      s.pc ≠ lastSlot ∧
      t = { s.aluWritePair rd odd (Config.aluDouble op vs) (Config.aluDoubleStatus op vs s.draws) with
        pc := s.pc + 1 } := by
  unfold execAluPair
  cases pairOdd rd <;> cases s.operands srcs <;> simp [State.advance_eq_next]

/-- All that an FPU operation can do when it goes on. -/
theorem execFpu_eq_next {op : Nat} {fd : RegNum} {srcs : List Operand} {s t : State} :
    execFpu op fd srcs s = .next t ↔ ∃ vs, s.operands srcs = some vs ∧ s.pc ≠ lastSlot ∧
      t = { s.fpuWrite fd (Config.fpuSingle op vs s.cfg.roundingMode) with pc := s.pc + 1 } := by
  unfold execFpu
  cases s.operands srcs <;> simp [State.advance_eq_next]

/-- All that an FPU operation on a pair can do when it goes on. -/
theorem execFpuPair_eq_next {op : Nat} {fd : RegNum} {srcs : List Operand} {s t : State} :
    execFpuPair op fd srcs s = .next t ↔ ∃ odd vs, pairOdd fd = some odd ∧ s.operands srcs = some vs ∧
      s.pc ≠ lastSlot ∧
      t = { s.fpuWritePair fd odd (Config.fpuDouble op vs s.cfg.roundingMode) with pc := s.pc + 1 } := by
  unfold execFpuPair
  cases pairOdd fd <;> cases s.operands srcs <;> simp [State.advance_eq_next]

/-- All that an instruction of a class can do when it goes on: it writes GPRs, or FPRs, or returns from an exception. -/
theorem execClass_next_cases {c : ClassOp} {s t : State} (h : execClass c s = .next t) :
    (∃ rd g d, s.pc ≠ lastSlot ∧ t = { s.setGpr rd g with pc := s.pc + 1, draws := d }) ∨
    (∃ rd g o g' d, s.pc ≠ lastSlot ∧ t = { (s.setGpr rd g).setGpr o g' with pc := s.pc + 1, draws := d }) ∨
    (∃ fd x, s.pc ≠ lastSlot ∧ t = { s.setFpr fd x with pc := s.pc + 1 }) ∨
    (∃ fd x o x', s.pc ≠ lastSlot ∧ t = { (s.setFpr fd x).setFpr o x' with pc := s.pc + 1 }) ∨
    (c = .exceptionReturn ∧ t = s.returnFromException) := by
  cases c with
  | alu op rd srcs =>
    obtain ⟨_, -, h1, h2⟩ := execAlu_eq_next.1 h
    exact .inl ⟨rd, _, _, h1, h2⟩
  | aluPair op rd srcs =>
    obtain ⟨_, _, -, -, h1, h2⟩ := execAluPair_eq_next.1 h
    exact .inr (.inl ⟨rd, _, _, _, _, h1, h2⟩)
  | loadWord rd addr =>
    simp only [execClass, execLoadWord, State.loadGpr] at h
    split at h
    · obtain ⟨h1, h2⟩ := State.advance_eq_next.1 h
      exact .inl ⟨rd, _, _, h1, h2⟩
    · cases h
  | loadByte fill rd addr =>
    simp only [execClass, execLoadByte, State.loadGpr] at h
    obtain ⟨h1, h2⟩ := State.advance_eq_next.1 h
    exact .inl ⟨rd, _, _, h1, h2⟩
  | loadHalf fill rd addr =>
    simp only [execClass, execLoadHalf, State.loadGpr] at h
    split at h
    · obtain ⟨h1, h2⟩ := State.advance_eq_next.1 h
      exact .inl ⟨rd, _, _, h1, h2⟩
    · cases h
  | fpu op fd srcs =>
    obtain ⟨_, -, h1, h2⟩ := execFpu_eq_next.1 h
    exact .inr (.inr (.inl ⟨fd, _, h1, h2⟩))
  | fpuPair op fd srcs =>
    obtain ⟨_, _, -, -, h1, h2⟩ := execFpuPair_eq_next.1 h
    exact .inr (.inr (.inr (.inl ⟨fd, _, _, _, h1, h2⟩)))
  | loadFloat fd addr =>
    simp only [execClass, execLoadFloat] at h
    split at h
    · obtain ⟨h1, h2⟩ := State.advance_eq_next.1 h
      exact .inr (.inr (.inl ⟨fd, _, h1, h2⟩))
    · cases h
  | exceptionReturn =>
    simp only [execClass, execExceptionReturn, Host.Outcome.next.injEq] at h
    exact .inr (.inr (.inr (.inr ⟨rfl, h.symm⟩)))

end Sys2Proof.Machine
end

