-- ==== Sys2Proof/Laws/Step.lean ====
section
/-! SUPPORT. Fetching, and all that one step can do. -/

namespace Sys2Proof.Machine

/-! ### Fetching -/

/-- Decoding the bytes of the current slot is decoding its word. -/
theorem decode_fetchBytes (s : State) :
    decode s.fetchBytes = match decodeWord s.fetchWord with
      | some i => .ok (i, [])
      | none => .error .unlisted := rfl

/-- The current slot holds the word placed in it. -/
theorem State.fetchWord_placeWord (s : State) (h : Memory.wf Config.codeAtReset s.code) (w : Word) :
    (s.placeWord w).fetchWord = w := by
  have h0 := Memory.write_wf Config.codeAtReset s.fetchAddress (byteOfWord w 0) h
  have h1 := Memory.write_wf Config.codeAtReset (s.fetchAddress + 1) (byteOfWord w 1) h0
  have h2 := Memory.write_wf Config.codeAtReset (s.fetchAddress + 2) (byteOfWord w 2) h1
  have ha : (s.placeWord w).fetchAddress = s.fetchAddress := rfl
  have hb : ∀ a, (s.placeWord w).codeByte a =
      if s.fetchAddress + 3 = a then byteOfWord w 3
      else if s.fetchAddress + 2 = a then byteOfWord w 2
      else if s.fetchAddress + 1 = a then byteOfWord w 1
      else if s.fetchAddress = a then byteOfWord w 0 else s.codeByte a := by
    intro a
    simp only [State.codeByte, State.placeWord]
    rw [Memory.read_write _ h2.1, Memory.read_write _ h1.1, Memory.read_write _ h0.1, Memory.read_write _ h.1]
  unfold State.fetchWord
  simp only [ha, hb]
  simp only [if_true, if_neg (show ¬s.fetchAddress + 3 = s.fetchAddress by omega),
    if_neg (show ¬s.fetchAddress + 2 = s.fetchAddress by omega),
    if_neg (show ¬s.fetchAddress + 1 = s.fetchAddress by omega),
    if_neg (show ¬s.fetchAddress + 3 = s.fetchAddress + 1 by omega),
    if_neg (show ¬s.fetchAddress + 2 = s.fetchAddress + 1 by omega),
    if_neg (show ¬s.fetchAddress + 3 = s.fetchAddress + 2 by omega)]
  exact wordOfBytes_byteOfWord w

/-- The core's turn executes the instruction its word stands for, with that word in IR. -/
theorem coreTurn_of_decodeWord {s : State} {i : Instr} (h : decodeWord s.fetchWord = some i) (u : Option ClassOp) :
    coreTurn u s = exec i s.fetchToIr := by
  simp [coreTurn, decode_fetchBytes, h]

/-- The core's turn with a word of no named instruction executes the class given. -/
theorem coreTurn_of_unlisted {s : State} (h : decodeWord s.fetchWord = none) (op : ClassOp) :
    coreTurn (some op) s = execClass op s.fetchToIr := by
  simp [coreTurn, decode_fetchBytes, h]

/-- The core's turn with a word of no named instruction and no class is refused. -/
theorem coreTurn_refused {s : State} (h : decodeWord s.fetchWord = none) :
    coreTurn none s = .refused .unlistedInstruction := by
  simp [coreTurn, decode_fetchBytes, h]

/-- All that the core's turn can do when it goes on. -/
theorem coreTurn_next_cases {u : Option ClassOp} {s t : State} (h : coreTurn u s = .next t) :
    (∃ i, decodeWord s.fetchWord = some i ∧ exec i s.fetchToIr = .next t) ∨
    (∃ op, u = some op ∧ decodeWord s.fetchWord = none ∧ execClass op s.fetchToIr = .next t) := by
  cases hd : decodeWord s.fetchWord with
  | some i => exact .inl ⟨i, rfl, (coreTurn_of_decodeWord hd u).symm.trans h⟩
  | none =>
    cases u with
    | none => rw [coreTurn_refused hd] at h; cases h
    | some op => exact .inr ⟨op, rfl, rfl, (coreTurn_of_unlisted hd op).symm.trans h⟩

/-- The step of a state whose next turn is the core's. -/
theorem step_coreNext {s : State} {u : Option ClassOp} (h : s.coreNext u) : step s = coreTurn u s.takeTurn := by
  rcases h with h | ⟨h, rfl⟩ <;> simp [step, h]

/-- The step of a state whose next turn is another agent's. -/
theorem step_agent {s : State} {act : AgentAct} (h : s.turns.head? = some (.agent act)) :
    step s = .next (s.takeTurn.agentTurn act) := by
  simp [step, h]

/-- All that a step can do when it goes on: `movi2s`, `movs2i`, an instruction of a class, or another agent's turn. -/
theorem step_next_cases {s t : State} (h : step s = .next t) :
    (∃ u a rs, s.coreNext u ∧ decodeWord s.takeTurn.fetchWord = some (.movi2s a rs) ∧
      execMovi2s a rs s.takeTurn.fetchToIr = .next t) ∨
    (∃ u rd a, s.coreNext u ∧ decodeWord s.takeTurn.fetchWord = some (.movs2i rd a) ∧
      execMovs2i rd a s.takeTurn.fetchToIr = .next t) ∨
    (∃ op, s.turns.head? = some (.core (some op)) ∧ decodeWord s.takeTurn.fetchWord = none ∧
      execClass op s.takeTurn.fetchToIr = .next t) ∨
    (∃ act, s.turns.head? = some (.agent act) ∧ t = s.takeTurn.agentTurn act) := by
  cases hh : s.turns.head? with
  | none =>
    have hc : s.coreNext none := .inr ⟨List.head?_eq_none_iff.1 hh, rfl⟩
    rw [step_coreNext hc] at h
    obtain ⟨⟨a, rs⟩ | ⟨rd, a⟩, hd, he⟩ | ⟨op, ho, -, -⟩ := coreTurn_next_cases h
    · exact .inl ⟨none, a, rs, hc, hd, he⟩
    · exact .inr (.inl ⟨none, rd, a, hc, hd, he⟩)
    · cases ho
  | some turn =>
    cases turn with
    | core u =>
      have hc : s.coreNext u := .inl hh
      rw [step_coreNext hc] at h
      obtain ⟨⟨a, rs⟩ | ⟨rd, a⟩, hd, he⟩ | ⟨op, rfl, hd, he⟩ := coreTurn_next_cases h
      · exact .inl ⟨u, a, rs, hc, hd, he⟩
      · exact .inr (.inl ⟨u, rd, a, hc, hd, he⟩)
      · exact .inr (.inr (.inl ⟨op, rfl, hd, he⟩))
    | agent act => exact .inr (.inr (.inr ⟨act, rfl, by simpa [step_agent hh] using h.symm⟩))

/-- A run of one step or more that goes on is a step that goes on and the rest of the run, on any machine. -/
theorem run_succ_next {M : Host.Core} {n : Nat} {s t : M.State} (h : M.run (n + 1) s = .next t) :
    ∃ u, M.step s = .next u ∧ M.run n u = .next t := by
  unfold Host.Core.run at h
  split at h
  · rename_i u hu; exact ⟨u, hu, h⟩
  · cases h
  · cases h

/-- A run of one step or more of the core that goes on is a step that goes on and the rest of the run. -/
theorem core_run_succ_next {n : Nat} {s t : State} (h : Sys2Proof.core.run (n + 1) s = .next t) :
    ∃ u : State, step s = .next u ∧ Sys2Proof.core.run n u = .next t :=
  run_succ_next (M := Sys2Proof.core) h

/-- All that a step can do when it goes on, as an update of the state: a special register written, a GPR written, an
instruction of a class, or another agent's turn. -/
theorem step_next_effects {s t : State} (h : step s = .next t) :
    (∃ u a rs p, s.coreNext u ∧ decode s.fetchBytes = .ok (.movi2s a rs, []) ∧ sprOf a = some p ∧ s.pc ≠ lastSlot ∧
      t = { s.takeTurn.fetchToIr.sprWrite (s.gprData rs) p with pc := s.pc + 1 }) ∨
    (∃ rd v, s.pc ≠ lastSlot ∧ t = { s.takeTurn.fetchToIr.writeMoved rd v with pc := s.pc + 1 }) ∨
    (∃ op, s.turns.head? = some (.core (some op)) ∧ decode s.fetchBytes = .error .unlisted ∧
      execClass op s.takeTurn.fetchToIr = .next t) ∨
    (∃ act, s.turns.head? = some (.agent act) ∧ t = s.takeTurn.agentTurn act) := by
  rcases step_next_cases h with ⟨u, a, rs, hc, hd, he⟩ | ⟨-, rd, a, -, hd, he⟩ | ⟨op, h1, hd, he⟩ | h
  · obtain ⟨p, -, h2, h3, rfl⟩ := execMovi2s_eq_next.1 he
    refine .inl ⟨u, a, rs, p, hc, ?_, h2, h3, rfl⟩
    exact (decode_fetchBytes s.takeTurn).trans (by rw [hd])
  · obtain ⟨p, -, -, h3, rfl⟩ := execMovs2i_eq_next.1 he
    exact .inr (.inl ⟨rd, _, h3, rfl⟩)
  · exact .inr (.inr (.inl ⟨op, h1, (decode_fetchBytes s.takeTurn).trans (by rw [hd]), he⟩))
  · exact .inr (.inr (.inr h))

/-- A register that keeps what is written holds it. -/
theorem State.gpr_setGpr_keeps {s : State} {rd : RegNum} {g : Gpr} (h : keepsWrites rd) :
    (s.setGpr rd g).gpr rd = g := by
  rw [State.gpr_setGpr_same, if_neg]
  rintro ⟨h1, h2⟩
  rcases h with h | h <;> simp_all

/-! ### What no agent's turn changes -/

variable (s : State) (act : AgentAct)

theorem State.agentTurn_registers :
    (s.agentTurn act).gprs = s.gprs ∧ (s.agentTurn act).fprs = s.fprs ∧ (s.agentTurn act).stp = s.stp ∧
    (s.agentTurn act).ir = s.ir ∧ (s.agentTurn act).pwd = s.pwd ∧ (s.agentTurn act).pwa = s.pwa ∧
    (s.agentTurn act).code = s.code ∧ (s.agentTurn act).data = s.data ∧ (s.agentTurn act).turns = s.turns := by
  cases act <;> simp only [State.agentTurn, State.timerCount, State.timerLoad, State.detect, State.tryEnter,
    State.present, State.takeException]
  all_goals first | (split <;> simp) | simp

/-- Either event i is taken or nothing changes. -/
theorem State.tryEnter_cases (i : EventNum) :
    (s.mayEnter i = true ∧ s.tryEnter i = s.takeException i) ∨ (s.mayEnter i = false ∧ s.tryEnter i = s) := by
  unfold State.tryEnter
  cases s.mayEnter i <;> simp

end Sys2Proof.Machine
end

