-- ==== Sys2Proof/Tests/Slice0.lean ====
section
/-! SUPPORT. The model's own tests, with expected values from spec/95_test_vectors.md, and for each statement with
hypotheses a theorem `witness_<statement>` that meets them. -/

namespace Sys2Proof.Tests

open Sys2Proof.Machine

/-! ### Helpers -/

/-- What a step leaves in the part of the state that f reads. -/
def after {α : Type} (o : Host.Outcome State Fault Refusal) (f : State → α) : Option α :=
  match o with
  | .next t => some (f t)
  | _ => none

/-- The reset state with GPR 1 holding v, its flags as given. -/
def withR1 (v : Word) (c w z : Bool) : State :=
  { State.reset with gprs := State.reset.gprs.set 1 ⟨v, z, w, c⟩ }

/-- The reset state in user mode. -/
def inUserMode : State := { State.reset with cfg := ⟨true, false, false, 0⟩ }

/-- The reset state at the last slot. -/
def atLastSlot : State := { State.reset with pc := lastSlot }

/-- The reset state with a next turn. -/
def withTurn (t : Turn) : State := { State.reset with turns := [t] }

/-- A state in which event i may be taken, under either polarity of MR. -/
def pendingEvent (i : EventNum) : State :=
  { State.reset with
    cr := BitVec.twoPow 32 i.val
    mr := if Config.mrSetMeans = .enables then 0x0FFFFFFFF#33 else 0
    turns := [.agent (.enters i)] }

/-- The reset state with an instruction in its first slot. -/
def placed (i : Instr) : State := State.reset.placeWord (encode i)

/-- A word that is the word of no instruction. -/
def unlistedWord : Word := Config.instructionWord 16384#32

/-- The reset state with that word in its first slot. -/
def placedUnlisted : State := State.reset.placeWord unlistedWord

theorem reset_mayEnter (i : EventNum) : (pendingEvent i).mayEnter i = true := by
  have h : (pendingEvent i).mr.getLsbD i.val = decide (Config.mrSetMeans = .enables) ∧
      (pendingEvent i).mr.getLsbD 32 = false := by
    unfold pendingEvent
    by_cases hm : Config.mrSetMeans = .enables
    · simp only [hm, if_true, decide_true]; revert i; decide
    · simp [hm]
  have hc : (pendingEvent i).cr.getLsbD i.val = true := by
    show (BitVec.twoPow 32 i.val).getLsbD i.val = true
    clear h; revert i; decide
  unfold State.mayEnter State.globalMask State.eventEnabled
  rw [hc, h.1, h.2]
  cases Config.mrSetMeans <;> rfl

theorem placed_decodes (i : Instr) : decode (placed i).fetchBytes = .ok (i, []) := by
  rw [decode_fetchBytes, placed, State.fetchWord_placeWord _ (Memory.nil_wf _), decodeWord_encode]

theorem unlistedWord_decodes : decodeWord unlistedWord = none := by
  simp [decodeWord, unlistedWord, termOfNumber]

theorem placedUnlisted_decodes : decode placedUnlisted.fetchBytes = .error .unlisted := by
  rw [decode_fetchBytes, placedUnlisted, State.fetchWord_placeWord _ (Memory.nil_wf _), unlistedWord_decodes]

/-- The first step of a placed instruction. -/
theorem step_placed (i : Instr) : step (placed i) = exec i (placed i).fetchToIr := by
  have hd : decodeWord (placed i).fetchWord = some i := by
    rw [placed, State.fetchWord_placeWord _ (Memory.nil_wf _), decodeWord_encode]
  exact (step_coreNext (.inr ⟨rfl, rfl⟩)).trans (coreTurn_of_decodeWord (s := (placed i).takeTurn) hd none)

/-! ### Well-formedness: the one check is that the address names a register (10_state.md R22) -/

theorem test_wellFormed_last_address : (Instr.movi2s 0x08 31).wellFormed = true ∧
    (Instr.movs2i 0 0x00).wellFormed = true := by decide

theorem test_wellFormed_refuses_unmapped_write : (Instr.movi2s 0x09 1).wellFormed = false := by decide

theorem test_wellFormed_refuses_unmapped_read : (Instr.movs2i 1 0xFF).wellFormed = false := by decide

/-! ### Decoding

The source gives no bit pattern of any instruction (30_encoding.md R81, R82), so no word can be written out bit by bit;
the words are symbolic (95_test_vectors.md, section 3). -/

theorem test_decode_movi2s : decodeWord (encode (.movi2s 0x01 1)) = some (.movi2s 0x01 1) := decodeWord_encode _

theorem test_decode_movs2i : decodeWord (encode (.movs2i 31 0x08)) = some (.movs2i 31 0x08) := decodeWord_encode _

theorem test_decode_truncated : (decode [0x00, 0x00, 0x00]).toOption = none := by decide

/-! ### Storage layout (95_test_vectors.md, 2.1) -/

theorem test_gpr_storage : (Gpr.mk 0 false false true).storage = 0x400000000#35 ∧
    (Gpr.mk 0 false true false).storage = 0x200000000#35 ∧ (Gpr.mk 0 true false false).storage = 0x100000000#35 ∧
    (Gpr.mk 0xFFFFFFFF true true true).storage = 0x7FFFFFFFF#35 ∧ (Gpr.mk 0x80000000 true true true).n = true ∧
    (Gpr.mk 0x7FFFFFFF true true true).n = false := by decide

theorem test_fpr_storage : (Fpr.mk 0xFF800000 false true true).storage = 0x6FF800000#35 := by decide

/-! ### movi2s (95_test_vectors.md, 2.5) -/

theorem test_cfg_vectors : (Cfg.ofWord 0x00000008).toWord = 0x00000000 ∧ (Cfg.ofWord 0x0000000C).toWord = 0x00000004 ∧
    (Cfg.ofWord 0x00000030).toWord = 0x00000030 ∧ (Cfg.ofWord 0xFFFFFFFE).toWord = 0x00000036 ∧
    (Cfg.ofWord 0xFFFFFFC0).toWord = 0x00000000 ∧ (Cfg.ofWord 0x0000003F).toWord = 0x00000037 := by decide

theorem test_movi2s_cfg_start : after (exec (.movi2s 0x00 1) (withR1 0x2C false false false))
    (fun t => (t.cfg, t.timerStarts, t.pc)) = some (⟨false, false, true, 0b10#2⟩, 1, 1) := by decide

theorem test_movi2s_stp : after (exec (.movi2s 0x01 1) (withR1 0x12C00400 false false false)) (·.stp) =
    some 0x000400#22 := by decide

theorem test_movi2s_mr : after (exec (.movi2s 0x02 1) { withR1 0xFFFFFFFF false false false with mr := 0x100000000#33 })
    (·.mr) = some 0x1FFFFFFFF#33 ∧
    after (exec (.movi2s 0x02 1) { withR1 0 false false false with mr := 0x0FFFFFFFF#33 }) (·.mr) = some 0 := by decide

theorem test_movi2s_pwa_without_flags : after (exec (.movi2s 0x06 1) (withR1 0x40000010 true false true))
    (fun t => (t.pwa, t.pwd)) = some (0x40000010, 0) := by decide

theorem test_movi2s_ir_no_effect : after (exec (.movi2s 0x03 1) (withR1 0xDEADBEEF false false false))
    (fun t => (t.ir, t.pc)) = some (0, 1) := by decide

/-! ### movs2i (95_test_vectors.md, 2.6 and 3) -/

theorem test_movs2i_cfg : after (exec (.movs2i 4 0x00) { State.reset with cfg := ⟨false, false, true, 0b10#2⟩ })
    (fun t => (t.gprData 4, (t.gpr 4).n)) = some (0x00000024, false) := by decide

theorem test_movs2i_mr : after (exec (.movs2i 3 0x02) { State.reset with mr := 0x1FFFFFFFF#33 })
    (fun t => (t.gprData 3, (t.gpr 3).n, t.mr)) = some (0xFFFFFFFF, true, 0x1FFFFFFFF#33) := by decide

theorem test_movs2i_stp_keeps_others : after (exec (.movs2i 3 0x01) { withR1 5 true false false with stp := 0x012345#22 })
    (fun t => (t.gprData 3, t.gpr 1)) = some (0x00012345, ⟨5, false, false, true⟩) := by decide

/-- P2, slot 3: the word is the instruction's own. -/
theorem test_movs2i_own_word : after (step (placed (.movs2i 4 0x03))) (·.gprData 4) =
    some (encode (.movs2i 4 0x03)) := by
  rw [step_placed]
  exact congrArg some (State.fetchWord_placeWord _ (Memory.nil_wf _) _)

/-! ### Classes (95_test_vectors.md, 2.2 to 2.4) -/

theorem test_alu : ((State.reset.aluWrite 5 0x80000000 ⟨true, true, false⟩).gpr 5).storage = 0x680000000#35 := by
  decide

/-- R90: the sources are read before the destination, here the same register, is written. -/
theorem test_alu_reads_before_writing (op : Nat) :
    after (execClass (.alu op 1 [.gpr 1, .immediate 3]) (withR1 5 true false false)) (·.gprData 1) =
    some (Config.aluWord op [.gpr ⟨5, false, false, true⟩, .immediate 3]) := rfl

theorem test_alu_pair : (fun t : State => (t.gpr 6, t.gpr 7))
      (State.aluWritePair (State.reset.setGpr 6 ⟨7, true, false, true⟩) 6 7 0xFFFFFFFF80000000 ⟨true, false, false⟩) =
    (⟨0x80000000, true, false, true⟩, ⟨0xFFFFFFFF, false, false, true⟩) := by decide

/-- R14: a pair named by an odd number is no source. -/
theorem test_odd_source (op : Nat) :
    execClass (.alu op 1 [.gprPair 7]) State.reset = .refused .oddRegisterPair := rfl

theorem test_load_byte : after (execClass (.loadByte .sign 8 0) { State.reset with data := [(0, 0x80)] }) (·.gpr 8) =
    some ⟨0xFFFFFF80, false, false, false⟩ ∧
    after (execClass (.loadByte .zeros 1 0) { withR1 0xFFFFFFFF false true false with data := [(0, 0xFF)] }) (·.gpr 1) =
    some ⟨0x000000FF, false, true, false⟩ := by decide

theorem test_half_extension : Fill.extend .sign (0x8000 : Half) = 0xFFFF8000 ∧
    Fill.extend .sign (0x7FFF : Half) = 0x00007FFF ∧ Fill.extend .zeros (0x8000 : Half) = 0x00008000 := by decide

theorem test_fpu : ((State.reset.fpuWrite 4 ⟨0xFF800000, .ofSingle 0xFF800000⟩).fpr 4).storage = 0x6FF800000#35 := by
  decide

/-- R113: '01' is RZ, read when the operation executes. -/
theorem test_fpu_rounds (op : Nat) : after (execClass (.fpu op 4 [.fpr 2])
    { State.reset with cfg := ⟨false, false, false, 0b01#2⟩ }) (·.fprData 4) =
    some (Config.fpuSingle op [.fpr ⟨0, false, false, false⟩] .rz).value := rfl

theorem test_fpu_status_names : FpuStatus.ofSingle 0x7FC00000 = ⟨false, false, false⟩ ∧
    FpuStatus.ofSingle 0x80000000 = ⟨true, false, true⟩ ∧
    FpuStatus.ofDouble 0x3FF0000000000000 = ⟨true, false, false⟩ ∧
    FpuStatus.ofDouble 0x8000000000000000 = ⟨true, false, true⟩ ∧
    FpuStatus.ofDouble 0xFFF0000000000000 = ⟨true, true, false⟩ := by decide

theorem test_fpu_pair : (fun t : State => (t.fpr 2, t.fpr 3))
      (State.reset.fpuWritePair 2 3 ⟨0x3FF0000000000000, ⟨true, false, false⟩⟩) =
    (⟨0, false, false, false⟩, ⟨0x3FF00000, false, false, true⟩) := by decide

/-! ### Agents (60_exceptions.md) -/

theorem test_timer_reaches_zero : after (step { State.reset with tmr := 1, turns := [.agent .timerCounts] })
    (fun t => (t.tmr, t.cr)) = some (0, withCause 0 Config.systickBit) := rfl

theorem test_timer_counts : after (step { State.reset with tmr := 5, turns := [.agent .timerCounts] })
    (fun t => (t.tmr, t.cr)) = some (4, 0) := by decide

theorem test_detect : after (step (withTurn (.agent (.detects 31)))) (·.cr) = some 0x80000000 := by decide

/-! ### Witnesses -/

/-- A supervisor state before the last slot meets the hypotheses of the result statements of movi2s and movs2i. -/
theorem witness_special_move (d : Config.SprAccess) (a : SprAddress) :
    State.reset.sprPermitted d a = true ∧ State.reset.pc ≠ lastSlot := ⟨rfl, by decide⟩

theorem witness_CfgWriteStoresFiveBits : ∃ (rs : RegNum) (s : State), s.sprPermitted .write 0x00 = true ∧
    s.pc ≠ lastSlot ∧ (s.gprData rs).getLsbD 3 = true :=
  ⟨1, withR1 8 false false false, rfl, by decide, by decide⟩

theorem witness_StpWriteKeepsLow22Bits : State.reset.sprPermitted .write 0x01 = true ∧ State.reset.pc ≠ lastSlot :=
  witness_special_move _ _

theorem witness_MrWriteLeavesGlobalMask : ∃ s : State, s.sprPermitted .write 0x02 = true ∧ s.pc ≠ lastSlot ∧
    s.mr.getLsbD 32 = true := ⟨{ State.reset with mr := 0x100000000#33 }, rfl, by decide, by decide⟩

theorem witness_ReadOnlyWritesHaveNoEffect (a : SprAddress) (_ : a = 0x03 ∨ a = 0x04 ∨ a = 0x07 ∨ a = 0x08) :
    State.reset.sprPermitted .write a = true ∧ State.reset.pc ≠ lastSlot := witness_special_move _ _

theorem witness_PeripheralWriteStores : State.reset.pc ≠ lastSlot ∧ State.reset.sprPermitted .write 0x05 = true ∧
    State.reset.sprPermitted .write 0x06 = true := ⟨by decide, rfl, rfl⟩

theorem witness_CfgReadReturnsStoredBits : State.reset.sprPermitted .read 0x00 = true ∧ State.reset.pc ≠ lastSlot ∧
    keepsWrites 31 := ⟨rfl, by decide, .inl (by decide)⟩

theorem witness_StpReadReturnsZeroExtended : ∃ s : State, s.sprPermitted .read 0x01 = true ∧ s.pc ≠ lastSlot ∧
    s.stp = 0x3FFFFF#22 ∧ keepsWrites 1 :=
  ⟨{ State.reset with stp := 0x3FFFFF#22 }, rfl, by decide, rfl, .inl (by decide)⟩

theorem witness_MrReadReturnsLow32Bits : State.reset.sprPermitted .read 0x02 = true ∧ State.reset.pc ≠ lastSlot ∧
    keepsWrites 1 := ⟨rfl, by decide, .inl (by decide)⟩

/-- The third clause at a step that does write PWD, and the second at one that writes PWA. -/
theorem witness_PeripheralRegistersReadBackLastWrite :
    (State.reset.pc ≠ lastSlot ∧ State.reset.sprPermitted .read 0x05 = true ∧
      State.reset.sprPermitted .read 0x06 = true ∧ keepsWrites 1) ∧
    (∃ t, step (placed (.movi2s 0x05 1)) = .next t) ∧ ∃ t, step (placed (.movi2s 0x06 1)) = .next t := by
  refine ⟨⟨by decide, rfl, rfl, .inl (by decide)⟩, ?_, ?_⟩ <;> rw [step_placed] <;> exact ⟨_, rfl⟩

theorem witness_IrReadReturnsOwnWord : ∃ s : State, s.coreNext none ∧
    decode s.fetchBytes = .ok (.movs2i 1 0x03, []) ∧ s.sprPermitted .read 0x03 = true ∧ s.pc ≠ lastSlot ∧
    keepsWrites 1 :=
  ⟨placed (.movs2i 1 0x03), .inr ⟨rfl, rfl⟩, placed_decodes _, rfl, by decide, .inl (by decide)⟩

theorem witness_TimerAndPeripheralReadsAreFree : State.reset.pc ≠ lastSlot ∧
    State.reset.sprPermitted .read 0x04 = true ∧ State.reset.sprPermitted .read 0x07 = true ∧
    State.reset.sprPermitted .read 0x08 = true ∧ keepsWrites 1 := ⟨by decide, rfl, rfl, rfl, .inl (by decide)⟩

theorem witness_MovedFlagsAreFree : (∃ t, exec (.movs2i 1 0x00) State.reset = .next t) ∧ keepsWrites 1 :=
  ⟨⟨_, rfl⟩, .inl (by decide)⟩

theorem witness_HardwiredR0DiscardsMoves : State.reset.sprPermitted .read 0x05 = true ∧ sprOf 0x05 = some .pwd ∧
    State.reset.pc ≠ lastSlot := ⟨rfl, rfl, by decide⟩

/-- The bound at 0x08 and 0x09: the first is mapped, the second and 0xFF are not. -/
theorem witness_UnmappedAddressIsRefused : State.reset.sprPermitted .write 0x09 = true ∧
    State.reset.sprPermitted .read 0x09 = true ∧ exec (.movi2s 0x09 1) State.reset = .refused .unmappedSpecialRegister ∧
    exec (.movs2i 1 0xFF) State.reset = .refused .unmappedSpecialRegister ∧
    ∃ t, exec (.movi2s 0x08 1) State.reset = .next t := ⟨rfl, rfl, rfl, rfl, _, rfl⟩

theorem witness_UserModeAccessFollowsPolicy : inUserMode.cfg.user = true ∧ State.reset.cfg.user = false := ⟨rfl, rfl⟩

theorem witness_LastSlotIsRefused : (0x08 : SprAddress).toNat ≤ 0x08 ∧ atLastSlot.pc = 0x3FFFFFFF#30 ∧
    atLastSlot.sprPermitted .write 0x08 = true ∧ atLastSlot.sprPermitted .read 0x08 = true :=
  ⟨by decide, rfl, rfl, rfl⟩

theorem witness_MovesAdvancePc : (∃ t, exec (.movi2s 0x00 1) State.reset = .next t) ∧
    ∃ t, exec (.movs2i 1 0x00) { State.reset with pc := 0x3FFFFFFE#30 } = .next t := ⟨⟨_, rfl⟩, _, rfl⟩

theorem witness_Movi2sFrame : (∃ t, exec (.movi2s 0x00 1) State.reset = .next t) ∧
    ∃ t, exec (.movi2s 0x06 1) State.reset = .next t := ⟨⟨_, rfl⟩, _, rfl⟩

theorem witness_Movs2iFrame : (∃ t, exec (.movs2i 1 0x00) State.reset = .next t) ∧
    ∃ t, exec (.movs2i 0 0x08) State.reset = .next t := ⟨⟨_, rfl⟩, _, rfl⟩

theorem witness_HiddenRegistersCannotBeRead : (∃ t, exec (.movs2i 1 0x02) State.reset = .next t) ∧
    (5 : BitVec 30) ≠ lastSlot := ⟨⟨_, rfl⟩, by decide⟩

theorem witness_StepRunsDecodedInstruction (i : Instr) : (placed i).coreNext none ∧
    decode (placed i).fetchBytes = .ok (i, []) := ⟨.inr ⟨rfl, rfl⟩, placed_decodes i⟩

theorem witness_PlacedWordRunsNext : Memory.wf Config.codeAtReset State.reset.code := Memory.nil_wf _

theorem witness_UnlistedWordRunsGivenClass : decode placedUnlisted.fetchBytes = .error .unlisted ∧
    placedUnlisted.coreNext none ∧
    State.coreNext { placedUnlisted with turns := [.core (some .exceptionReturn)] } (some .exceptionReturn) ∧
    decode (State.fetchBytes { placedUnlisted with turns := [.core (some .exceptionReturn)] }) = .error .unlisted :=
  ⟨placedUnlisted_decodes, .inr ⟨rfl, rfl⟩, .inl rfl, placedUnlisted_decodes⟩

theorem reset_inv : State.reset.Inv :=
  { codeWf := Memory.nil_wf _, codeRange := by simp [State.reset], dataWf := Memory.nil_wf _
    noStack := fun _ => by decide, hardR0 := fun _ => by decide }

/-- The invariant's step, at a step of another agent and at an exception entry. -/
theorem witness_StepKeepsInvariant :
    ∃ s t : State, s.Inv ∧ step s = .next t ∧ s.turns = [.agent (.presents 5 6)] :=
  ⟨withTurn (.agent (.presents 5 6)), _,
    { codeWf := reset_inv.codeWf, codeRange := reset_inv.codeRange, dataWf := reset_inv.dataWf,
      noStack := reset_inv.noStack, hardR0 := reset_inv.hardR0 }, rfl, rfl⟩

/-- The last pair, R30 and R31, and the first. -/
theorem witness_AluPairSetsOddFlagsOnly : ((30 : RegNum).val % 2 = 0 ∧ (31 : RegNum).val = (30 : RegNum).val + 1) ∧
    ((0 : RegNum).val % 2 = 0 ∧ (1 : RegNum).val = (0 : RegNum).val + 1) ∧ State.reset.pc ≠ lastSlot ∧
    (∃ vs, State.reset.operands [.gprPair 30, .gpr 2] = some vs) ∧ keepsWrites 30 :=
  ⟨by decide, by decide, by decide, ⟨_, rfl⟩, .inl (by decide)⟩

theorem witness_AluResultSetsDataAndFlags : State.reset.pc ≠ lastSlot ∧
    (∃ vs, State.reset.operands [.gpr 5, .immediate 1] = some vs) ∧ keepsWrites 5 ∧ (4 : RegNum) ≠ 5 :=
  ⟨by decide, ⟨_, rfl⟩, .inl (by decide), by decide⟩

theorem witness_LoadLeavesFlags : State.reset.pc ≠ lastSlot ∧ 4 % 4 = 0 ∧ 2 % 2 = 0 ∧ keepsWrites 3 :=
  ⟨by decide, rfl, rfl, .inl (by decide)⟩

theorem witness_NarrowLoadsExtend : State.reset.pc ≠ lastSlot ∧ 2 % 2 = 0 ∧ keepsWrites 1 :=
  ⟨by decide, rfl, .inl (by decide)⟩

theorem witness_FpuResultSetsDataAndFlags (op : Nat) : State.reset.pc ≠ lastSlot ∧
    (∃ vs, State.reset.operands [.fpr 3, .fprPair 4] = some vs ∧
      ∃ r, r = Config.fpuSingle op vs State.reset.cfg.roundingMode) ∧ (3 : RegNum) ≠ 4 :=
  ⟨by decide, ⟨_, rfl, _, rfl⟩, by decide⟩

theorem witness_FpuPairSetsOddFlagsOnly (op : Nat) : (30 : RegNum).val % 2 = 0 ∧
    (31 : RegNum).val = (30 : RegNum).val + 1 ∧ State.reset.pc ≠ lastSlot ∧
    ∃ vs, State.reset.operands [.fprPair 30] = some vs ∧
      ∃ r, r = Config.fpuDouble op vs State.reset.cfg.roundingMode :=
  ⟨by decide, by decide, by decide, _, rfl, _, rfl⟩

theorem witness_FloatLoadLeavesFlags : State.reset.pc ≠ lastSlot ∧ 8 % 4 = 0 := ⟨by decide, rfl⟩

theorem witness_RoundingModeSelectsOutcome (r : BitVec 2) :
    ∃ s : State, s.pc ≠ lastSlot ∧ s.cfg.rounding = r ∧ (2 : RegNum).val % 2 = 0 ∧
      ∃ vs, s.operands [.fpr 1, .fprPair 2] = some vs :=
  ⟨{ State.reset with cfg := ⟨false, false, false, r⟩ }, (by decide : (0 : BitVec 30) ≠ lastSlot), rfl, rfl, _, rfl⟩

theorem witness_OddPairIsRefused : (31 : RegNum).val % 2 = 1 ∧
    .gprPair 31 ∈ [Operand.gpr 1, .gprPair 31] ∧ .fprPair 1 ∈ [Operand.fprPair 1] := by decide

theorem witness_MisalignedLoadFollowsPolicy : 2 % 4 ≠ 0 ∧ 1 % 4 ≠ 0 ∧ 1 % 2 ≠ 0 := by decide

theorem witness_ClassOperationFrame (op : Nat) :
    (∃ t, ClassOp.alu op 1 [.gpr 2] ≠ .exceptionReturn ∧ execClass (.alu op 1 [.gpr 2]) State.reset = .next t) ∧
    ∃ t, ClassOp.fpu op 1 [.fpr 2] ≠ .exceptionReturn ∧ execClass (.fpu op 1 [.fpr 2]) State.reset = .next t :=
  ⟨⟨_, by simp, rfl⟩, _, by simp, rfl⟩

theorem witness_PairAliasesItsRegisters : (30 : RegNum).val % 2 = 0 ∧ (31 : RegNum).val = (30 : RegNum).val + 1 := by
  decide

theorem witness_DetectionSetsAndKeepsCause :
    (withTurn (.agent (.detects 31))).turns.head? = some (.agent (.detects 31)) ∧
    ∃ s t : State, step s = .next t ∧ s.cr.getLsbD (31 : EventNum).val = true :=
  ⟨rfl, { withTurn (.agent (.detects 0)) with cr := 0x80000000 }, _, rfl, by decide⟩

theorem witness_HandlerStartClearsItsCauseOnly (i : EventNum) :
    (pendingEvent i).turns.head? = some (.agent (.enters i)) ∧ (pendingEvent i).mayEnter i = true ∧
    ∃ t, exec (.movi2s 0x02 1) State.reset = .next t := ⟨rfl, reset_mayEnter i, _, rfl⟩

/-- The entry of an event that may be taken changes L0 on a core without the stack, so the second clause is met too. -/
theorem witness_EntrySavesReturnAddress (i : EventNum) :
    (pendingEvent i).turns.head? = some (.agent (.enters i)) ∧ (pendingEvent i).mayEnter i = true ∧
    (pendingEvent i).pc ≠ lastSlot ∧
    ∃ s t : State, step s = .next t ∧ t.links ≠ s.links := by
  refine ⟨rfl, reset_mayEnter i, by simp [pendingEvent, State.reset, lastSlot], pendingEvent i, _,
    step_agent (act := .enters i) rfl, ?_⟩
  rcases State.tryEnter_cases (pendingEvent i).takeTurn i with ⟨-, he⟩ | ⟨hm, -⟩
  · simp only [State.agentTurn, he]
    intro h
    have hj := congrArg (fun l : Vector (BitVec 36) 32 =>
      (l.get (pendingEvent i).takeTurn.entryLink).extractLsb' 0 30) h
    have h1 : ((pendingEvent i).takeTurn.takeException i).links.get (pendingEvent i).takeTurn.entryLink =
        Config.linkHigh 0 ++ (1 : BitVec 30) := by
      show (State.reset.links.set (pendingEvent i).takeTurn.entryLink.val (Config.linkHigh 0 ++ (1 : BitVec 30))
        (pendingEvent i).takeTurn.entryLink.isLt).get (pendingEvent i).takeTurn.entryLink = _
      simp [Vector.get_eq_getElem]
    have h2 : ∀ j : Fin 32, (State.reset.links.get j).extractLsb' 0 30 = 0#30 := by decide
    have h3 : ∀ x : BitVec 6, ((x ++ (1 : BitVec 30) : BitVec 36).extractLsb' 0 30) = 1#30 := by decide
    simp only [h1] at hj
    rw [h3] at hj
    exact absurd (hj.trans (h2 _)) (by decide)
  · exact absurd (reset_mayEnter i) (by rw [show (pendingEvent i).mayEnter i = false from hm]; simp)

theorem witness_EntryFrame (i : EventNum) : (pendingEvent i).turns.head? = some (.agent (.enters i)) ∧
    (pendingEvent i).mayEnter i = true := ⟨rfl, reset_mayEnter i⟩

/-- The first two clauses at a masked event, the third at a step of each kind that may change the mask. -/
theorem witness_GlobalMaskDisablesEvents : ∃ s : State, s.globalMask = true ∧
    s.turns.head? = some (.agent (.enters 3)) ∧ s.cr.getLsbD (3 : EventNum).val = true ∧ ∃ t, step s = .next t :=
  ⟨{ State.reset with mr := 0x100000000#33, cr := 8, turns := [.agent (.enters 3)] }, by decide, rfl, by decide, _, rfl⟩

/-- The third clause: from one of the two values of the mask, an entry or a return changes it. -/
theorem witness_globalMask_changes : ∃ s t : State, execClass .exceptionReturn s = .next t ∧
    t.globalMask ≠ s.globalMask :=
  ⟨{ State.reset with mr := withGlobalMask 0 (!Config.returnGlobalMask 0) }, _, rfl, by
    show (withGlobalMask _ (Config.returnGlobalMask 0)).getLsbD 32 ≠
      (withGlobalMask 0 (!Config.returnGlobalMask 0)).getLsbD 32
    rw [globalBit_withGlobalMask, globalBit_withGlobalMask]
    cases Config.returnGlobalMask 0 <;> decide⟩

/-- Both ways an event is kept from being taken: not pending, and not enabled under either polarity. -/
theorem witness_DisabledEventIsNotTaken :
    (∃ s : State, s.turns.head? = some (.agent (.enters 3)) ∧ s.cr.getLsbD (3 : EventNum).val = false) ∧
    ∃ s : State, s.turns.head? = some (.agent (.enters 3)) ∧
      s.mr.getLsbD (3 : EventNum).val ≠ decide (Config.mrSetMeans = .enables) := by
  refine ⟨⟨withTurn (.agent (.enters 3)), rfl, by decide⟩,
    { withTurn (.agent (.enters 3)) with mr := if Config.mrSetMeans = .enables then 0 else 8 }, rfl, ?_⟩
  cases Config.mrSetMeans <;> decide

theorem witness_TimerCountsDownToSystick :
    (∃ s : State, s.turns.head? = some (.agent .timerCounts) ∧ s.tmr = 1 ∧ s.tmr ≠ 0) ∧
    (∃ s : State, s.turns.head? = some (.agent .timerCounts) ∧ s.tmr = 0) ∧
    ∃ s : State, s.turns.head? = some (.agent .timerLoads) ∧ s.timerStarts = 1 :=
  ⟨⟨{ withTurn (.agent .timerCounts) with tmr := 1 }, rfl, rfl, by decide⟩, ⟨withTurn (.agent .timerCounts), rfl, rfl⟩,
    { withTurn (.agent .timerLoads) with timerStarts := 1 }, rfl, rfl⟩

theorem witness_OnlyTimerWritesTmr : ∃ s t : State, step s = .next t ∧ t.tmr ≠ s.tmr :=
  ⟨{ withTurn (.agent .timerCounts) with tmr := 1 }, _, rfl, by decide⟩

theorem witness_PeripheralsAloneSetPrdPra :
    (withTurn (.agent (.presents 5 6))).turns.head? = some (.agent (.presents 5 6)) ∧
    (∃ s t : State, step s = .next t ∧ ∀ datum ident, s.turns.head? ≠ some (.agent (.presents datum ident))) ∧
    State.reset.cfg.user = false ∧ State.reset.pc ≠ lastSlot ∧ keepsWrites 1 :=
  ⟨rfl, ⟨withTurn (.agent .timerLoads), _, rfl, by simp [withTurn]⟩, rfl, by decide, .inl (by decide)⟩

theorem witness_NoStepWritesMemory : ∃ t, step (withTurn (.agent .timerCounts)) = .next t := ⟨_, rfl⟩

theorem witness_CoreTurnHoldsWordInIr : (∃ t, step (placed (.movi2s 0x05 1)) = .next t) ∧
    (placed (.movi2s 0x05 1)).coreNext none ∧ ∃ t, step (withTurn (.agent .timerCounts)) = .next t := by
  refine ⟨?_, .inr ⟨rfl, rfl⟩, _, rfl⟩
  rw [step_placed]
  exact ⟨_, rfl⟩

/-- A step that changes STP and one that changes CFG: the registers differ from what is written. -/
theorem witness_SoftwareAloneSetsConfiguration :
    (∃ s t : State, step s = .next t ∧ t.stp ≠ s.stp) ∧
    ∃ s t : State, step s = .next t ∧
      (t.cfg.nested, t.cfg.autoStop, t.cfg.rounding) ≠ (s.cfg.nested, s.cfg.autoStop, s.cfg.rounding) ∧
      t.cfg.user ≠ s.cfg.user := by
  have h : ∀ i, step { withR1 0xFFFFFFFF false false false with code := (placed i).code } =
      exec i { withR1 0xFFFFFFFF false false false with code := (placed i).code, ir := (placed i).fetchWord } := by
    intro i
    have hd : decodeWord (placed i).fetchWord = some i := by
      rw [placed, State.fetchWord_placeWord _ (Memory.nil_wf _), decodeWord_encode]
    exact (step_coreNext (.inr ⟨rfl, rfl⟩)).trans
      (coreTurn_of_decodeWord (s := { withR1 0xFFFFFFFF false false false with code := (placed i).code }) hd none)
  exact ⟨⟨_, _, h (.movi2s 0x01 1), by decide⟩, ⟨_, _, h (.movi2s 0x00 1), by decide⟩⟩

theorem witness_QuietRunKeepsExceptionState : (withTurn (.agent (.presents 5 6))).quiet = true ∧
    ∃ t, Sys2Proof.core.run 1 (withTurn (.agent (.presents 5 6))) = .next t := ⟨by decide, _, rfl⟩

/-- Two states that differ in a register that is no source. -/
theorem witness_FpuDependsOnOperandsAndModeAlone (op : Nat) : ∃ s s' : State, s ≠ s' ∧
    s.operands [.fpr 1, .fprPair 2] = s'.operands [.fpr 1, .fprPair 2] ∧ s.cfg.rounding = s'.cfg.rounding ∧
    (∃ t, execClass (.fpu op 4 [.fpr 1, .fprPair 2]) s = .next t) ∧
    (∃ t, execClass (.fpu op 4 [.fpr 1, .fprPair 2]) s' = .next t) ∧
    (∃ t, execClass (.fpuPair op 4 [.fpr 1, .fprPair 2]) s = .next t) ∧
    (∃ t, execClass (.fpuPair op 4 [.fpr 1, .fprPair 2]) s' = .next t) ∧ (5 : RegNum).val = (4 : RegNum).val + 1 :=
  ⟨State.reset, { State.reset with stp := 1 }, by decide, rfl, rfl, ⟨_, rfl⟩, ⟨_, rfl⟩, ⟨_, rfl⟩, ⟨_, rfl⟩, rfl⟩

theorem witness_EspNamesTheTop (i : EventNum) : (pendingEvent i).turns.head? = some (.agent (.enters i)) ∧
    (pendingEvent i).mayEnter i = true ∧ (pendingEvent i).pc ≠ lastSlot :=
  ⟨rfl, reset_mayEnter i, by simp [pendingEvent, State.reset, lastSlot]⟩

end Sys2Proof.Tests
end

section
/-! The registers after reset, and the bits of a register's storage (10_state.md, sections 1, 2 and 13). -/

namespace Sys2Proof.Machine

/-! ### The register files after reset -/

@[simp] theorem State.reset_gprs_get (r : RegNum) : State.reset.gprs.get r = Gpr.reset := by
  simp [State.reset, Vector.get_eq_getElem]

@[simp] theorem State.reset_fprs_get (r : RegNum) : State.reset.fprs.get r = Fpr.reset := by
  simp [State.reset, Vector.get_eq_getElem]

theorem State.reset_links_get (j : Fin 32) :
    State.reset.links.get j = if j = 0 then 0x800000000#36 else 0 := by
  by_cases h : j = 0
  · subst h; rfl
  · have hv : 0 ≠ j.val := fun e => h (Fin.ext e.symm)
    simp [State.reset, Vector.get_eq_getElem, h, hv]

/-! ### The storage of a register -/

/-- Three flags above a word, the form in which both register files store a register (R11, R17). -/
theorem flags_append_word_layout (hi mid lo : Bool) (d : Word) :
    let stored := BitVec.ofBool hi ++ BitVec.ofBool mid ++ BitVec.ofBool lo ++ d
    stored.extractLsb' 0 32 = d ∧ stored.getLsbD 31 = d.getLsbD 31 ∧ stored.getLsbD 32 = lo ∧
      stored.getLsbD 33 = mid ∧ stored.getLsbD 34 = hi := by
  refine ⟨BitVec.extractLsb'_append_eq_right, ?_, ?_, ?_, ?_⟩
  all_goals
    simp only [BitVec.getLsbD_append]
    simp

/-- Settles O1: the register files are constant but for L0, and the other fields are reset's own literals. -/
theorem resetRegistersZeroButL0 : Obligations.ResetRegistersZeroButL0 := by
  have hgpr : ∀ r, (State.reset.gprs.get r).data = 0 := fun r => by rw [State.reset_gprs_get]; rfl
  have hfpr : ∀ f, (State.reset.fprs.get f).data = 0 := fun f => by rw [State.reset_fprs_get]; rfl
  have hL0 : State.reset.links.get 0 = 0x800000000#36 := by rw [State.reset_links_get, if_pos rfl]
  have hlinks : ∀ j : Fin 32, j ≠ 0 → State.reset.links.get j = 0 := fun j hj => by
    rw [State.reset_links_get, if_neg hj]
  exact ⟨hgpr, hfpr, by decide, rfl, rfl, rfl, rfl, rfl, rfl, rfl, rfl, rfl, rfl, rfl, hL0,
    by rw [hL0]; decide, by rw [hL0]; decide, hlinks⟩

/-- Settles O43: a GPR stores C, V, Z and an FPR A, I, Z as the three flags above its data, N being a bit of the
data itself. -/
theorem registerStorageLayout : Obligations.RegisterStorageLayout :=
  ⟨fun g => flags_append_word_layout g.c g.v g.z g.data, fun f => flags_append_word_layout f.a f.i f.z f.data⟩

end Sys2Proof.Machine
end

section
/-! What `movi2s` and `movs2i` do at each special register address (42_special_register_moves.md, sections 1 to 3). -/

namespace Sys2Proof.Machine

/-! ### A permitted move before the last slot -/

section PermittedMove

variable {s : State} {a : SprAddress} {p : Spr}

/-- A permitted `movi2s` to a mapped address performs its write and goes on (R130). -/
theorem exec_movi2s_of_permitted (hw : s.sprPermitted .write a = true) (ha : sprOf a = some p) (hpc : s.pc ≠ lastSlot)
    (rs : RegNum) :
    exec (.movi2s a rs) s = .next { s.sprWrite (s.gprData rs) p with pc := s.pc + 1 } :=
  execMovi2s_eq_next.2 ⟨p, hw, ha, hpc, rfl⟩

/-- A permitted `movs2i` from a mapped address performs its read and goes on (R131). -/
theorem exec_movs2i_of_permitted (hr : s.sprPermitted .read a = true) (ha : sprOf a = some p) (hpc : s.pc ≠ lastSlot)
    (rd : RegNum) :
    exec (.movs2i rd a) s = .next { s.writeMoved rd (s.sprRead p) with pc := s.pc + 1 } :=
  execMovs2i_eq_next.2 ⟨p, hr, ha, hpc, rfl⟩

/-- The destination of `movs2i` holds the value moved, if it keeps what is written. -/
theorem State.gprData_writeMoved {rd : RegNum} (hk : keepsWrites rd) (v : Word) :
    (s.writeMoved rd v).gprData rd = v :=
  congrArg Gpr.data (State.gpr_setGpr_keeps hk)

/-- A permitted `movs2i` goes on and leaves `SprRead` in a destination that keeps what is written. -/
theorem exec_movs2i_gprData (hr : s.sprPermitted .read a = true) (ha : sprOf a = some p) (hpc : s.pc ≠ lastSlot)
    (rd : RegNum) :
    ∃ t, exec (.movs2i rd a) s = .next t ∧ (keepsWrites rd → t.gprData rd = s.sprRead p) :=
  ⟨_, exec_movs2i_of_permitted hr ha hpc rd, fun hk => State.gprData_writeMoved hk _⟩

end PermittedMove

/-! ### The values read -/

/-- A read of CFG is at most 0x37 (R141). -/
theorem Cfg.toWord_toNat_le (c : Cfg) : c.toWord.toNat ≤ 0x37 := by
  obtain ⟨user, nested, autoStop, rounding⟩ := c
  revert user nested autoStop rounding
  decide

/-- A read of STP is STP as a number (R142). -/
theorem State.sprRead_stp_toNat (s : State) : (s.sprRead .stp).toNat = s.stp.toNat :=
  BitVec.toNat_setWidth_of_le (by decide)

/-! ### What changes PWD and PWA -/

/-- PWD or PWA read after a special register is written: the value written to it, or as before (R137, R138). -/
theorem State.sprRead_sprWrite_peripheral {q : Spr} (hq : q = .pwd ∨ q = .pwa) (s : State) (v : Word) (p : Spr) :
    (s.sprWrite v p).sprRead q = if p = q then v else s.sprRead q := by
  obtain rfl | rfl := hq <;> cases p <;> rfl

/-- No instruction of a class writes PWD or PWA. -/
theorem execClass_keeps_peripheral {c : ClassOp} {s t : State} (h : execClass c s = .next t) :
    t.pwd = s.pwd ∧ t.pwa = s.pwa := by
  obtain ⟨_, _, _, -, rfl⟩ | ⟨_, _, _, _, _, -, rfl⟩ | ⟨_, _, -, rfl⟩ | ⟨_, _, _, _, -, rfl⟩ | ⟨-, rfl⟩ :=
    execClass_next_cases h
  all_goals exact ⟨rfl, rfl⟩

/-- A read of PWD or PWA depends on those two registers alone. -/
theorem State.sprRead_peripheral_congr {q : Spr} (hq : q = .pwd ∨ q = .pwa) {s t : State}
    (hpwd : t.pwd = s.pwd) (hpwa : t.pwa = s.pwa) : t.sprRead q = s.sprRead q := by
  obtain rfl | rfl := hq
  · exact hpwd
  · exact hpwa

/-- A step leaves PWD or PWA as it is, or it is the core's and runs a `movi2s` to it, which stores the register. -/
theorem step_peripheral_last_write {q : Spr} (hq : q = .pwd ∨ q = .pwa) {s t : State} (h : step s = .next t) :
    t.sprRead q = s.sprRead q ∨
      ∃ u rs, s.coreNext u ∧ decode s.fetchBytes = .ok (.movi2s q.address rs, []) ∧ t.sprRead q = s.gprData rs := by
  obtain ⟨u, a, rs, p, hc, hd, ha, -, rfl⟩ | ⟨rd, v, -, rfl⟩ | ⟨op, -, -, he⟩ | ⟨act, -, rfl⟩ := step_next_effects h
  · have hread := State.sprRead_sprWrite_peripheral hq s.takeTurn.fetchToIr (s.gprData rs) p
    by_cases hp : p = q
    · subst hp
      obtain rfl := (sprOf_eq_some_iff a p).1 ha
      exact .inr ⟨u, rs, hc, hd, hread.trans (if_pos rfl)⟩
    · exact .inl ((hread.trans (if_neg hp)).trans (State.sprRead_peripheral_congr hq rfl rfl))
  · exact .inl (State.sprRead_peripheral_congr hq rfl rfl)
  · obtain ⟨hpwd, hpwa⟩ := execClass_keeps_peripheral he
    exact .inl (State.sprRead_peripheral_congr hq hpwd hpwa)
  · obtain ⟨-, -, -, -, hpwd, hpwa, -⟩ := s.takeTurn.agentTurn_registers act
    exact .inl (State.sprRead_peripheral_congr hq hpwd hpwa)

/-! ### The obligations on writes -/

/-- Settles O13: the write replaces MR bits 31 to 0, and bit 32 is kept in place above them. -/
theorem mrWriteLeavesGlobalMask : Obligations.MrWriteLeavesGlobalMask := fun rs s hw hpc =>
  ⟨_, exec_movi2s_of_permitted hw rfl hpc rs,
    fun k hk => (withEventMask_bit s.mr (s.gprData rs) k).trans (if_pos hk),
    globalBit_withEventMask s.mr (s.gprData rs), rfl⟩

/-- Settles O11: the write of CFG is `Cfg.ofWord`, with the start request counted beside it. -/
theorem cfgWriteStoresFiveBits : Obligations.CfgWriteStoresFiveBits := fun rs _ hw hpc =>
  ⟨_, exec_movi2s_of_permitted hw rfl hpc rs, rfl⟩

/-- Settles O12: the write of STP drops the bits above the low 22. -/
theorem stpWriteKeepsLow22Bits : Obligations.StpWriteKeepsLow22Bits := fun rs _ hw hpc =>
  ⟨_, exec_movi2s_of_permitted hw rfl hpc rs, rfl⟩

/-- Settles O14: at each of the four addresses `SprWrite` gives the state back. -/
theorem readOnlyWritesHaveNoEffect : Obligations.ReadOnlyWritesHaveNoEffect := by
  intro a rs s ha hw hpc
  have hno : ∃ p, sprOf a = some p ∧ s.sprWrite (s.gprData rs) p = s := by
    obtain rfl | rfl | rfl | rfl := ha
    · exact ⟨.ir, rfl, rfl⟩
    · exact ⟨.tmr, rfl, rfl⟩
    · exact ⟨.prd, rfl, rfl⟩
    · exact ⟨.pra, rfl, rfl⟩
  obtain ⟨p, hp, hsame⟩ := hno
  exact ⟨_, exec_movi2s_of_permitted hw hp hpc rs, by rw [hsame]⟩

/-- Settles O15: each of the two writes stores the whole register. -/
theorem peripheralWriteStores : Obligations.PeripheralWriteStores := fun rs _ hpc =>
  ⟨fun hw => ⟨_, exec_movi2s_of_permitted hw rfl hpc rs, rfl⟩,
    fun hw => ⟨_, exec_movi2s_of_permitted hw rfl hpc rs, rfl⟩⟩

/-! ### The obligations on reads -/

/-- Settles O16: the value is `Cfg.toWord`, whose greatest value is found by going through CFG's values. -/
theorem cfgReadReturnsStoredBits : Obligations.CfgReadReturnsStoredBits := by
  intro rd s hr hpc
  obtain ⟨t, ht, hval⟩ := exec_movs2i_gprData hr (p := .cfg) rfl hpc rd
  exact ⟨t, ht, fun hk => ⟨hval hk, (congrArg BitVec.toNat (hval hk)).trans_le s.cfg.toWord_toNat_le⟩⟩

/-- Settles O17: extension keeps the number, and 22 bits bound it. -/
theorem stpReadReturnsZeroExtended : Obligations.StpReadReturnsZeroExtended := by
  intro rd s hr hpc
  obtain ⟨t, ht, hval⟩ := exec_movs2i_gprData hr (p := .stp) rfl hpc rd
  refine ⟨t, ht, fun hk => ?_⟩
  have hnum : (t.gprData rd).toNat = s.stp.toNat := by rw [hval hk, s.sprRead_stp_toNat]
  exact ⟨hnum, hnum.trans_le (Nat.le_of_lt_succ s.stp.isLt)⟩

/-- Settles O18: both states read the same bits 31 to 0 of MR, so that they write the same register file, a hardwired
R0 among it. -/
theorem mrReadReturnsLow32Bits : Obligations.MrReadReturnsLow32Bits := by
  intro rd s b hr hpc
  have hsame : State.sprRead { s with mr := withGlobalMask s.mr b } .mr = s.sprRead .mr :=
    eventMask_withGlobalMask s.mr b
  refine ⟨_, _, exec_movs2i_of_permitted hr (p := .mr) rfl hpc rd,
    exec_movs2i_of_permitted (s := { s with mr := withGlobalMask s.mr b }) hr (p := .mr) rfl hpc rd, ?_, ?_⟩
  · rw [hsame]
    exact congrArg Gpr.data (State.gpr_congr rfl rd)
  · intro hk k hk32
    have hval : (s.writeMoved rd (s.sprRead .mr)).gprData rd = s.mr.extractLsb' 0 32 := State.gprData_writeMoved hk _
    calc ((s.writeMoved rd (s.sprRead .mr)).gprData rd).getLsbD k
        = (s.mr.extractLsb' 0 32).getLsbD k := by rw [hval]
      _ = s.mr.getLsbD k := by simp [hk32]

/-- Settles O19: a read gives the register, reset clears both, and a step changes one only by a `movi2s` to it. -/
theorem peripheralRegistersReadBackLastWrite : Obligations.PeripheralRegistersReadBackLastWrite :=
  ⟨fun rd _ hpc => ⟨fun hr => exec_movs2i_gprData hr (p := .pwd) rfl hpc rd,
      fun hr => exec_movs2i_gprData hr (p := .pwa) rfl hpc rd⟩,
    ⟨rfl, rfl⟩, fun _ _ h => ⟨step_peripheral_last_write (.inl rfl) h, step_peripheral_last_write (.inr rfl) h⟩⟩

end Sys2Proof.Machine
end

section
/-! All that one step can do, said once and by whose turn it is (00_scope.md R6). -/

namespace Sys2Proof.Machine

/-! ### The loads -/

theorem execLoadWord_eq_next {rd : RegNum} {addr : Nat} {s t : State} :
    execLoadWord rd addr s = .next t ↔ alignmentPermitted 4 addr = true ∧ s.pc ≠ lastSlot ∧
      t = { s.loadGpr rd (s.dataWord addr) with pc := s.pc + 1 } := by
  unfold execLoadWord
  split <;> simp_all [State.advance_eq_next, State.loadGpr]

theorem execLoadByte_eq_next {fill : Fill} {rd : RegNum} {addr : Nat} {s t : State} :
    execLoadByte fill rd addr s = .next t ↔ s.pc ≠ lastSlot ∧
      t = { s.loadGpr rd (fill.extend (s.dataByte addr)) with pc := s.pc + 1 } :=
  State.advance_eq_next

theorem execLoadHalf_eq_next {fill : Fill} {rd : RegNum} {addr : Nat} {s t : State} :
    execLoadHalf fill rd addr s = .next t ↔ alignmentPermitted 2 addr = true ∧ s.pc ≠ lastSlot ∧
      t = { s.loadGpr rd (fill.extend (s.dataHalf addr)) with pc := s.pc + 1 } := by
  unfold execLoadHalf
  split <;> simp_all [State.advance_eq_next, State.loadGpr]

theorem execLoadFloat_eq_next {fd : RegNum} {addr : Nat} {s t : State} :
    execLoadFloat fd addr s = .next t ↔ alignmentPermitted 4 addr = true ∧ s.pc ≠ lastSlot ∧
      t = { s.setFpr fd ((s.fpr fd).withData (s.dataWord addr)) with pc := s.pc + 1 } := by
  unfold execLoadFloat
  split <;> simp_all [State.advance_eq_next]

/-! ### The core's turn -/

/-- A hardwired R0 is stored as before, whichever GPR is written (D3). -/
theorem State.setGpr_gprs_get_zero (s : State) (h : Config.r0IsZero = true) (r : RegNum) (g : Gpr) :
    (s.setGpr r g).gprs.get 0 = s.gprs.get 0 := by
  unfold State.setGpr
  by_cases hr : r = 0
  · simp [hr, h]
  · have hv : r.val ≠ 0 := fun e => hr (Fin.ext e)
    simp [hr, hv, Vector.get_eq_getElem]

/-- An instruction of a class other than the return writes registers and PC alone, and a hardwired R0 not at all. -/
theorem execClass_writes_registers {c : ClassOp} {s t : State} (hc : c ≠ .exceptionReturn)
    (h : execClass c s = .next t) :
    ∃ gprs fprs draws, (Config.r0IsZero = true → gprs.get 0 = s.gprs.get 0) ∧
      t = { s with gprs := gprs, fprs := fprs, draws := draws, pc := s.pc + 1 } := by
  obtain ⟨rd, g, d, -, rfl⟩ | ⟨rd, g, o, g', d, -, rfl⟩ | ⟨fd, x, -, rfl⟩ | ⟨fd, x, o, x', -, rfl⟩ | ⟨hret, -⟩ :=
    execClass_next_cases h
  · exact ⟨_, _, _, fun hz => s.setGpr_gprs_get_zero hz rd g, rfl⟩
  · exact ⟨_, _, _, fun hz =>
      ((s.setGpr rd g).setGpr_gprs_get_zero hz o g').trans (s.setGpr_gprs_get_zero hz rd g), rfl⟩
  · exact ⟨_, _, _, fun _ => rfl, rfl⟩
  · exact ⟨_, _, _, fun _ => rfl, rfl⟩
  · exact absurd hret hc

/-- The bytes of the current slot decode to an instruction exactly when their word stands for it. -/
theorem decode_fetchBytes_eq_ok_iff {s : State} {i : Instr} :
    decode s.fetchBytes = .ok (i, []) ↔ decodeWord s.fetchWord = some i := by
  rw [decode_fetchBytes]
  cases decodeWord s.fetchWord <;> simp

/-- The bytes of the current slot are refused as unlisted exactly when their word stands for no instruction. -/
theorem decode_fetchBytes_eq_unlisted_iff {s : State} :
    decode s.fetchBytes = .error .unlisted ↔ decodeWord s.fetchWord = none := by
  rw [decode_fetchBytes]
  cases decodeWord s.fetchWord <;> simp

/-! ### The effect of a step -/

/-- What a step can leave, one constructor for each kind of turn: `movi2s`; `movs2i` or an instruction of a class, which
write registers; the return from an exception; the timer; a detection; the start of a handler, if the event may be taken
and if it may not; the peripherals. -/
inductive StepEffect (s : State) : State → Prop where
  | specialWrite {u : Option ClassOp} {a : SprAddress} {rs : RegNum} (p : Spr) (hcore : s.coreNext u)
      (hdecode : decode s.fetchBytes = .ok (.movi2s a rs, [])) (haddress : sprOf a = some p) :
      StepEffect s { s.takeTurn.fetchToIr.sprWrite (s.gprData rs) p with pc := s.pc + 1 }
  | registers {u : Option ClassOp} (hcore : s.coreNext u) (gprs : Vector Gpr 32) (fprs : Vector Fpr 32) (draws : Nat)
      (hardR0 : Config.r0IsZero = true → gprs.get 0 = s.gprs.get 0) :
      StepEffect s { s.takeTurn.fetchToIr with gprs := gprs, fprs := fprs, draws := draws, pc := s.pc + 1 }
  | excReturn (hturn : s.turns.head? = some (.core (some .exceptionReturn)))
      (hdecode : decode s.fetchBytes = .error .unlisted) :
      StepEffect s s.takeTurn.fetchToIr.returnFromException
  | timer {act : AgentAct} (hturn : s.turns.head? = some (.agent act))
      (hact : act = .timerCounts ∨ act = .timerLoads) (tmr : Word) (raised : Bool) (starts draws : Nat) :
      StepEffect s { s.takeTurn with
        tmr := tmr, cr := withSystick s.cr raised, timerStarts := starts, draws := draws }
  | detect {i : EventNum} (hturn : s.turns.head? = some (.agent (.detects i))) : StepEffect s (s.takeTurn.detect i)
  | enter {i : EventNum} (hturn : s.turns.head? = some (.agent (.enters i))) (hmay : s.mayEnter i = true) :
      StepEffect s (s.takeTurn.takeException i)
  | notEntered {i : EventNum} (hturn : s.turns.head? = some (.agent (.enters i))) (hmay : s.mayEnter i = false) :
      StepEffect s s.takeTurn
  | present {datum ident : Word} (hturn : s.turns.head? = some (.agent (.presents datum ident))) :
      StepEffect s (s.takeTurn.present datum ident)

/-- Counting at zero, where the count and systick are free (R175, N20, N21). -/
theorem State.timerCount_of_zero {s : State} (h : s.tmr = 0) :
    s.timerCount = { s with
      tmr := Config.tmrAtZero s.stp s.cfg.autoStop s.draws
      cr := withSystick s.cr (Config.systickAtZero s.stp s.cfg.autoStop s.draws)
      draws := s.draws + 1 } :=
  if_pos h

/-- Counting down by one, and systick at zero (R175). -/
theorem State.timerCount_of_ne_zero {s : State} (h : s.tmr ≠ 0) :
    s.timerCount = { s with tmr := s.tmr - 1, cr := withSystick s.cr (s.tmr == 1) } :=
  if_neg h

/-- The turn of another agent has one of the effects of a step. -/
theorem agentTurn_effect {s : State} {act : AgentAct} (hturn : s.turns.head? = some (.agent act)) :
    StepEffect s (s.takeTurn.agentTurn act) := by
  cases act with
  | timerCounts =>
    show StepEffect s s.takeTurn.timerCount
    by_cases hzero : s.takeTurn.tmr = 0
    · rw [State.timerCount_of_zero hzero]
      exact .timer hturn (.inl rfl) _ _ _ _
    · rw [State.timerCount_of_ne_zero hzero]
      exact .timer hturn (.inl rfl) _ _ _ _
  | timerLoads => exact .timer hturn (.inr rfl) _ _ _ _
  | detects i => exact .detect hturn
  | enters i =>
    show StepEffect s (s.takeTurn.tryEnter i)
    obtain ⟨hmay, htry⟩ | ⟨hmay, htry⟩ := s.takeTurn.tryEnter_cases i
    · rw [htry]
      exact .enter hturn hmay
    · rw [htry]
      exact .notEntered hturn hmay
  | presents datum ident => exact .present hturn

/-- Every step that goes on has one of these effects. -/
theorem step_effect {s t : State} (h : step s = .next t) : StepEffect s t := by
  obtain ⟨u, a, rs, hcore, hd, he⟩ | ⟨u, rd, a, hcore, -, he⟩ | ⟨op, hturn, hd, he⟩ | ⟨act, hturn, rfl⟩ :=
    step_next_cases h
  · obtain ⟨p, -, haddress, -, rfl⟩ := execMovi2s_eq_next.1 he
    exact .specialWrite p hcore (decode_fetchBytes_eq_ok_iff.2 hd) haddress
  · obtain ⟨p, -, -, -, rfl⟩ := execMovs2i_eq_next.1 he
    exact .registers hcore _ _ _ fun hz => s.setGpr_gprs_get_zero hz rd _
  · by_cases hop : op = .exceptionReturn
    · subst hop
      obtain rfl : s.takeTurn.fetchToIr.returnFromException = t := Host.Outcome.next.inj he
      exact .excReturn hturn (decode_fetchBytes_eq_unlisted_iff.2 hd)
    · obtain ⟨gprs, fprs, draws, hardR0, rfl⟩ := execClass_writes_registers hop he
      exact .registers (.inl hturn) gprs fprs draws hardR0
  · exact agentTurn_effect hturn

/-! ### What every step does -/

/-- No step writes either memory, and each takes the next turn off the list. -/
theorem step_code_data_turns {s t : State} (h : step s = .next t) :
    t.code = s.code ∧ t.data = s.data ∧ t.turns = s.turns.tail := by
  cases step_effect h with
  | specialWrite => simp
  | _ => exact ⟨rfl, rfl, rfl⟩

/-- A step of the core is not a step of another agent. -/
theorem State.coreNext_not_agent {s : State} {u : Option ClassOp} (h : s.coreNext u) (act : AgentAct) :
    s.turns.head? ≠ some (.agent act) := by
  obtain h | ⟨h, -⟩ := h <;> simp [h]

end Sys2Proof.Machine
end

section
/-! What every step of any agent keeps: the invariant of the machine, and in a quiet run the exception state. -/

namespace Sys2Proof.Machine

/-! ### The link register used -/

/-- Without the stack an entry uses L0 (R168). -/
theorem State.entryLink_noStack (s : State) (h : Config.hasLrs = false) : s.entryLink = 0 := by
  simp [State.entryLink, h]

/-- Without the stack a return uses L0 (R168). -/
theorem State.returnLink_noStack (s : State) (h : Config.hasLrs = false) : s.returnLink = 0 := by
  simp [State.returnLink, h]

/-- Without the stack an entry leaves ESP (R42). -/
theorem State.espAfterEntry_noStack (s : State) (h : Config.hasLrs = false) : s.espAfterEntry = s.esp := by
  simp [State.espAfterEntry, h]

/-- Without the stack a return leaves ESP (R42). -/
theorem State.espAfterReturn_noStack (s : State) (h : Config.hasLrs = false) : s.espAfterReturn = s.esp := by
  simp [State.espAfterReturn, h]

/-- The link registers after an entry: the one used holds the return address below bits that are free (R165). -/
theorem State.takeException_links_get (s : State) (i : EventNum) (j : Fin 32) :
    (s.takeException i).links.get j =
      if j = s.entryLink then Config.linkHigh s.draws ++ s.returnAddress else s.links.get j := by
  simp [State.takeException, Vector.get_eq_getElem, Vector.getElem_set, Fin.ext_iff, eq_comm]

/-! ### The invariant -/

/-- Without the stack L1 to L31 and ESP are as before any step (R40, R42). -/
theorem step_noStack {s t : State} (hn : Config.hasLrs = false) (h : step s = .next t) :
    t.esp = s.esp ∧ ∀ j : Fin 32, j ≠ 0 → t.links.get j = s.links.get j := by
  cases step_effect h with
  | specialWrite => simp
  | excReturn => exact ⟨State.espAfterReturn_noStack _ hn, fun _ _ => rfl⟩
  | @enter i =>
    refine ⟨State.espAfterEntry_noStack _ hn, fun j hj => ?_⟩
    rw [State.takeException_links_get, State.entryLink_noStack _ hn, if_neg hj]
    rfl
  | _ => exact ⟨rfl, fun _ _ => rfl⟩

/-- A hardwired R0 is stored as before any step (D3). -/
theorem step_hardR0 {s t : State} (hz : Config.r0IsZero = true) (h : step s = .next t) :
    t.gprs.get 0 = s.gprs.get 0 := by
  cases step_effect h with
  | specialWrite => simp
  | registers _ _ _ _ hardR0 => exact hardR0 hz
  | _ => rfl

/-- Settles O4: no step writes a memory, and each leaves a register of an absent stack and a hardwired R0. -/
theorem stepKeepsInvariant : Obligations.StepKeepsInvariant := by
  intro s t hs h
  obtain ⟨hcode, hdata, -⟩ := step_code_data_turns h
  exact {
    codeWf := hcode ▸ hs.codeWf
    codeRange := hcode ▸ hs.codeRange
    dataWf := hdata ▸ hs.dataWf
    noStack := fun hn => by
      obtain ⟨hesp, hlinks⟩ := step_noStack hn h
      obtain ⟨hesp0, hlinks0⟩ := hs.noStack hn
      exact ⟨hesp.trans hesp0, fun j hj => (hlinks j hj).trans (hlinks0 j hj)⟩
    hardR0 := fun hz => (step_hardR0 hz h).trans (hs.hardR0 hz) }

/-- Settles O3: nothing is listed in memory, and every register but L0 is zero. -/
theorem resetMeetsInvariant : Obligations.ResetMeetsInvariant where
  codeWf := Memory.nil_wf _
  codeRange := fun c hc => by cases hc
  dataWf := Memory.nil_wf _
  noStack := fun _ => ⟨rfl, fun j hj => by rw [State.reset_links_get, if_neg hj]⟩
  hardR0 := fun _ => State.reset_gprs_get 0

/-! ### Quiet runs -/

/-- The next turn listed in a quiet state is quiet. -/
theorem State.quiet_head {s : State} (hq : s.quiet = true) {turn : Turn} (h : s.turns.head? = some turn) :
    turn.quiet = true :=
  List.all_eq_true.1 hq turn (List.mem_of_mem_head? h)

/-- The turns left after a quiet one are quiet. -/
theorem State.quiet_of_turns_tail {s t : State} (hq : s.quiet = true) (h : t.turns = s.turns.tail) :
    t.quiet = true := by
  rw [State.quiet, h, List.all_eq_true]
  exact fun turn hturn => List.all_eq_true.1 hq turn (List.mem_of_mem_tail hturn)

/-- MR bit 32 stays when a special register is written (R134). -/
theorem State.sprWrite_globalMask (s : State) (v : Word) (p : Spr) : (s.sprWrite v p).globalMask = s.globalMask := by
  cases p with
  | mr => exact globalBit_withEventMask s.mr v
  | _ => rfl

/-- One quiet step leaves the exception state, and the turns left are quiet. -/
theorem step_quiet {s t : State} (hq : s.quiet = true) (h : step s = .next t) :
    t.cr = s.cr ∧ t.links = s.links ∧ t.esp = s.esp ∧ t.globalMask = s.globalMask ∧ t.quiet = true := by
  obtain ⟨-, -, hturns⟩ := step_code_data_turns h
  have hquiet : t.quiet = true := State.quiet_of_turns_tail hq hturns
  cases step_effect h with
  | specialWrite p =>
    exact ⟨State.sprWrite_cr _ _ p, State.sprWrite_links _ _ p, State.sprWrite_esp _ _ p,
      State.sprWrite_globalMask _ _ p, hquiet⟩
  | registers => exact ⟨rfl, rfl, rfl, rfl, hquiet⟩
  | present => exact ⟨rfl, rfl, rfl, rfl, hquiet⟩
  | timer hturn hact => obtain rfl | rfl := hact <;> cases State.quiet_head hq hturn
  | excReturn hturn => cases State.quiet_head hq hturn
  | detect hturn => cases State.quiet_head hq hturn
  | enter hturn => cases State.quiet_head hq hturn
  | notEntered hturn => cases State.quiet_head hq hturn

/-- Settles O58, by induction on the length of the run. -/
theorem quietRunKeepsExceptionState : Obligations.QuietRunKeepsExceptionState := by
  intro n
  induction n with
  | zero =>
    intro s t hq h
    obtain rfl : s = t := Host.Outcome.next.inj h
    exact ⟨rfl, rfl, rfl, rfl, hq⟩
  | succ n ih =>
    intro s t hq h
    obtain ⟨u, hstep, hrun⟩ := core_run_succ_next h
    obtain ⟨hcr, hlinks, hesp, hmask, hqu⟩ := step_quiet hq hstep
    obtain ⟨hcr', hlinks', hesp', hmask', hqt⟩ := ih u t hqu hrun
    exact ⟨hcr'.trans hcr, hlinks'.trans hlinks, hesp'.trans hesp, hmask'.trans hmask, hqt⟩

end Sys2Proof.Machine
end

section
/-! Words and instructions: decoding undoes encoding, and the core's turn runs what the current slot decodes to
(30_encoding.md, section 3; 20_memory.md, section 1). -/

namespace Sys2Proof

/-! ### Words -/

/-- A word stands for the one instruction whose word it is. -/
theorem decodeWord_eq_some_iff {w : Word} {i : Instr} : decodeWord w = some i ↔ encode i = w := by
  constructor
  · intro h
    have hnum : termNumber i = (Config.instructionWord.symm w).toNat := termNumber_of_termOfNumber h
    rw [encode, hnum, BitVec.ofNat_toNat, BitVec.setWidth_eq, Equiv.apply_symm_apply]
  · rintro rfl
    exact decodeWord_encode i

/-- A word stands for no instruction exactly when it is the word of none. -/
theorem decodeWord_eq_none_iff {w : Word} : decodeWord w = none ↔ ∀ i, encode i ≠ w := by
  simp only [Option.eq_none_iff_forall_ne_some, ne_eq, decodeWord_eq_some_iff]

/-- The bytes of a word, with others after them, decode to what the word stands for. -/
theorem decode_bytesOfWord_append_of_some {w : Word} {i : Instr} (h : decodeWord w = some i) (rest : List Byte) :
    decode (bytesOfWord w ++ rest) = .ok (i, rest) := by
  simp only [bytesOfWord, List.cons_append, List.nil_append, decode, wordOfBytes_byteOfWord, h]

/-- The bytes of a word that stands for no instruction are refused as unlisted. -/
theorem decode_bytesOfWord_of_none {w : Word} (h : decodeWord w = none) :
    decode (bytesOfWord w) = .error .unlisted := by
  simp only [bytesOfWord, decode, wordOfBytes_byteOfWord, h]

/-- The bytes of a word decode to an instruction exactly when the word stands for it. -/
theorem decode_bytesOfWord_eq_ok_iff {w : Word} {i : Instr} :
    decode (bytesOfWord w) = .ok (i, []) ↔ decodeWord w = some i := by
  refine ⟨fun h => ?_, fun h => decode_bytesOfWord_append_of_some h []⟩
  cases hw : decodeWord w with
  | none => rw [decode_bytesOfWord_of_none hw] at h; cases h
  | some j =>
    have hj : decode (bytesOfWord w) = .ok (j, []) := decode_bytesOfWord_append_of_some hw []
    rw [hj] at h
    cases h
    rfl

/-- The bytes of a word are refused as unlisted exactly when the word stands for no instruction. -/
theorem decode_bytesOfWord_eq_unlisted_iff {w : Word} :
    decode (bytesOfWord w) = .error .unlisted ↔ decodeWord w = none := by
  refine ⟨fun h => ?_, decode_bytesOfWord_of_none⟩
  cases hw : decodeWord w with
  | none => rfl
  | some i =>
    rw [decode_bytesOfWord_eq_ok_iff.2 hw] at h
    cases h

/-- A word is the table word of 32 bits with its number. -/
theorem ofNat_toNat_mod_self (w : Word) : BitVec.ofNat 32 (w.toNat % 2 ^ 32) = w := by
  rw [Nat.mod_eq_of_lt w.isLt, BitVec.ofNat_toNat, BitVec.setWidth_eq]

/-- A table word of 32 bits that is an instruction's own word decodes to it. -/
theorem decodeTableWord_encode (i : Instr) : decodeTableWord 32 (encode i).toNat = some i := by
  rw [decodeTableWord, ofNat_toNat_mod_self, decode_bytesOfWord_eq_ok_iff.2 (decodeWord_encode i)]

/-- Settles O5: the four bytes make up the word again, and the numbering of instruction terms is one to one. -/
theorem decodeReadsBackEncode : Obligations.DecodeReadsBackEncode := fun i rest =>
  decode_bytesOfWord_append_of_some (decodeWord_encode i) rest

/-- Settles O6: a word stands for the instruction whose word it is, and for no other. -/
theorem wordsOfNoInstructionAreRejected : Obligations.WordsOfNoInstructionAreRejected := fun _ =>
  ⟨fun _ => decode_bytesOfWord_eq_ok_iff.trans decodeWord_eq_some_iff,
    decode_bytesOfWord_eq_unlisted_iff.trans decodeWord_eq_none_iff⟩

/-- Settles O7: as for every instruction's own word. -/
theorem sampleWordsDecode : Obligations.SampleWordsDecode :=
  ⟨decodeTableWord_encode _, decodeTableWord_encode _⟩

namespace Machine

/-! ### The core's turn -/

/-- When the next turn is the core's, the step executes the instruction the current slot decodes to. -/
theorem step_of_decode {s : State} {u : Option ClassOp} {i : Instr} (hcore : s.coreNext u)
    (hdecode : decode s.fetchBytes = .ok (i, [])) : step s = exec i s.takeTurn.fetchToIr :=
  (step_coreNext hcore).trans
    (coreTurn_of_decodeWord (s := s.takeTurn) (decode_fetchBytes_eq_ok_iff (s := s.takeTurn).1 hdecode) u)

/-- Settles O8: taking the turn off and holding the word in IR are the two updates of the state. -/
theorem stepRunsDecodedInstruction : Obligations.StepRunsDecodedInstruction := fun _ _ _ hcore hdecode =>
  step_of_decode hcore hdecode

/-- Settles O10: the word at PC stands for no instruction, which leaves the class the turn gives. -/
theorem unlistedWordRunsGivenClass : Obligations.UnlistedWordRunsGivenClass := by
  intro s hdecode
  have hword : decodeWord s.takeTurn.fetchWord = none :=
    decode_fetchBytes_eq_unlisted_iff (s := s.takeTurn).1 hdecode
  exact ⟨fun op hcore => (step_coreNext hcore).trans (coreTurn_of_unlisted hword op),
    fun hcore => (step_coreNext hcore).trans (coreTurn_refused hword)⟩

/-- Settles O9: the slot holds the word placed there, which stands for the instruction. -/
theorem placedWordRunsNext : Obligations.PlacedWordRunsNext := by
  intro s i hwf
  have hplace : s.withFetchWord 32 (encode i).toNat =
      { s.placeWord (encode i) with turns := .core none :: s.turns } := by
    rw [State.withFetchWord, ofNat_toNat_mod_self]
  have hfetch : (s.placeWord (encode i)).fetchWord = encode i := State.fetchWord_placeWord s hwf (encode i)
  have hdecode : decode (s.placeWord (encode i)).fetchBytes = .ok (i, []) :=
    decode_fetchBytes_eq_ok_iff.2 (by rw [hfetch, decodeWord_encode])
  have hstep : step { s.placeWord (encode i) with turns := .core none :: s.turns } =
      exec i (s.placeWord (encode i)).fetchToIr := step_of_decode (.inl rfl) hdecode
  rw [hplace, hstep, State.fetchToIr, hfetch]

/-- Settles O20: IR holds the fetched word when `SprRead` reads it. -/
theorem irReadReturnsOwnWord : Obligations.IrReadReturnsOwnWord := by
  intro s u rd hcore hdecode hread hpc
  have hexec := exec_movs2i_of_permitted (s := s.takeTurn.fetchToIr) hread (p := .ir) rfl hpc rd
  exact ⟨_, (step_of_decode hcore hdecode).trans hexec, rfl, fun hk => State.gprData_writeMoved hk s.fetchWord⟩

end Machine

end Sys2Proof
end

section
/-! When `movi2s` and `movs2i` are refused, and what they leave unchanged (42_special_register_moves.md). -/

namespace Sys2Proof

/-- The direction in which an instruction accesses the special register at its address (10_state.md R43). -/
def Instr.direction : Instr → Config.SprAccess
  | .movi2s _ _ => .write
  | .movs2i _ _ => .read

namespace Machine

/-! ### Refusals (section 4) -/

/-- The three refusals of `movi2s` and `movs2i`: a user mode access that is not allowed (R153), an address that names no
special register (R150), and the last slot (R151). -/
theorem exec_eq_refused_iff {i : Instr} {s : State} {r : Refusal} :
    exec i s = .refused r ↔
      (s.sprPermitted i.direction i.address = false ∧ r = .userModeAccess) ∨
      (s.sprPermitted i.direction i.address = true ∧ sprOf i.address = none ∧ r = .unmappedSpecialRegister) ∨
      (s.sprPermitted i.direction i.address = true ∧ sprOf i.address ≠ none ∧ s.pc = lastSlot ∧ r = .pastLastSlot) := by
  cases i with
  | movi2s a rs =>
    simp only [exec, execMovi2s, Instr.direction, Instr.address]
    cases s.sprPermitted .write a <;> cases sprOf a <;> simp [State.advance_eq_refused, eq_comm (b := r)]
  | movs2i rd a =>
    simp only [exec, execMovs2i, Instr.direction, Instr.address]
    cases s.sprPermitted .read a <;> cases sprOf a <;> simp [State.advance_eq_refused, eq_comm (b := r)]

/-- A permitted access is refused as naming no special register exactly at an address above 0x08 (R150). -/
theorem exec_unmapped_iff {i : Instr} {s : State} (hp : s.sprPermitted i.direction i.address = true) :
    exec i s = .refused .unmappedSpecialRegister ↔ 0x08 < i.address.toNat := by
  rw [← sprOf_eq_none_iff]
  simp [exec_eq_refused_iff, hp]

/-- An access is refused as one of user mode exactly when it is not permitted (R153). -/
theorem exec_userModeAccess_iff {i : Instr} {s : State} :
    exec i s = .refused .userModeAccess ↔ s.sprPermitted i.direction i.address = false := by
  simp [exec_eq_refused_iff]

/-- In user mode an access is not permitted exactly where the policy refuses it (R153). -/
theorem State.sprPermitted_userMode {s : State} (h : s.cfg.user = true) (d : Config.SprAccess) (a : SprAddress) :
    s.sprPermitted d a = false ↔ Config.userSprPolicy d a = .refuse := by
  rw [State.sprPermitted, h]
  cases Config.userSprPolicy d a <;> decide

/-- A permitted access to a special register is refused in the last slot (R151). -/
theorem exec_refused_at_lastSlot {i : Instr} {s : State} (hp : s.sprPermitted i.direction i.address = true)
    (ha : i.address.toNat ≤ 0x08) (hpc : s.pc = lastSlot) : exec i s = .refused .pastLastSlot := by
  have hmapped : sprOf i.address ≠ none := fun hnone => absurd ((sprOf_eq_none_iff i.address).1 hnone) (by omega)
  exact exec_eq_refused_iff.2 (.inr (.inr ⟨hp, hmapped, hpc, rfl⟩))

/-- Settles O24: the address names a special register exactly up to 0x08. -/
theorem unmappedAddressIsRefused : Obligations.UnmappedAddressIsRefused := fun a r _ =>
  ⟨exec_unmapped_iff (i := .movi2s a r), exec_unmapped_iff (i := .movs2i r a)⟩

/-- Settles O25: the policy decides in user mode alone. -/
theorem userModeAccessFollowsPolicy : Obligations.UserModeAccessFollowsPolicy := by
  refine fun a r s => ⟨fun huser => ?_, fun hsuper => ?_⟩
  · exact ⟨exec_userModeAccess_iff.trans (State.sprPermitted_userMode huser _ _),
      exec_userModeAccess_iff.trans (State.sprPermitted_userMode huser _ _)⟩
  · have hne (i : Instr) : exec i s ≠ .refused .userModeAccess := fun h => by
      rw [exec_userModeAccess_iff, State.sprPermitted_supervisor hsuper] at h
      cases h
    exact ⟨hne _, hne _⟩

/-- Settles O26: both instructions end in the sequential step, which the last slot refuses. -/
theorem lastSlotIsRefused : Obligations.LastSlotIsRefused := fun a r _ ha hpc =>
  ⟨fun hw => exec_refused_at_lastSlot (i := .movi2s a r) hw ha hpc,
    fun hr => exec_refused_at_lastSlot (i := .movs2i r a) hr ha hpc⟩

/-! ### The next PC (section 4) -/

/-- Before the last slot PC + 1 does not wrap. -/
theorem toNat_add_one_of_ne_lastSlot {pc : BitVec 30} (h : pc ≠ lastSlot) : (pc + 1).toNat = pc.toNat + 1 := by
  have hne : pc.toNat ≠ 0x3FFFFFFF := fun e => h (BitVec.eq_of_toNat_eq e)
  have hfits : pc.toNat + 1 < 2 ^ 30 := by have := pc.isLt; omega
  rw [BitVec.toNat_add]
  exact Nat.mod_eq_of_lt hfits

/-- An instruction goes on from before the last slot, to PC + 1. -/
theorem exec_next_pc {i : Instr} {s t : State} (h : exec i s = .next t) : s.pc ≠ lastSlot ∧ t.pc = s.pc + 1 := by
  cases i with
  | movi2s a rs =>
    obtain ⟨p, -, -, hpc, rfl⟩ := execMovi2s_eq_next.1 h
    exact ⟨hpc, rfl⟩
  | movs2i rd a =>
    obtain ⟨p, -, -, hpc, rfl⟩ := execMovs2i_eq_next.1 h
    exact ⟨hpc, rfl⟩

/-- Settles O27: the instruction went on, so that its slot was not the last one. -/
theorem movesAdvancePc : Obligations.MovesAdvancePc := by
  intro i s t h
  obtain ⟨hpc, hnext⟩ := exec_next_pc h
  exact ⟨hnext, by rw [hnext, toNat_add_one_of_ne_lastSlot hpc]⟩

/-! ### Frames (sections 1 to 3) -/

/-- The registers that a write to a special register p other than their own leaves (R132 to R140). -/
theorem State.sprWrite_other (s : State) (v : Word) (p : Spr) :
    (p ≠ .cfg → (s.sprWrite v p).cfg = s.cfg ∧ (s.sprWrite v p).timerStarts = s.timerStarts) ∧
    (p ≠ .stp → (s.sprWrite v p).stp = s.stp) ∧ (p ≠ .mr → (s.sprWrite v p).mr = s.mr) ∧
    (p ≠ .pwd → (s.sprWrite v p).pwd = s.pwd) ∧ (p ≠ .pwa → (s.sprWrite v p).pwa = s.pwa) := by
  cases p <;> simp [State.sprWrite]

/-- Memory that is listed alike reads alike. -/
theorem sameMemory_of_eq {s t : State} (hcode : t.code = s.code) (hdata : t.data = s.data) : sameMemory s t := by
  intro a
  rw [State.codeByte, State.dataByte, hcode, hdata]
  exact ⟨rfl, rfl⟩

/-- Settles O28: a special register is written and PC moves on. -/
theorem movi2sFrame : Obligations.Movi2sFrame := by
  intro a rs s t h
  obtain ⟨p, -, haddress, -, rfl⟩ := execMovi2s_eq_next.1 h
  have hne {q : Spr} (ha : a ≠ q.address) : p ≠ q := fun hpq => ha ((sprOf_eq_some_iff a q).1 (hpq ▸ haddress))
  obtain ⟨hcfg, hstp, hmr, hpwd, hpwa⟩ := s.sprWrite_other (s.gprData rs) p
  have hfprs := s.sprWrite_fprs (s.gprData rs) p
  have hsame : sameMemory s (s.sprWrite (s.gprData rs) p) :=
    sameMemory_of_eq (s.sprWrite_code _ p) (s.sprWrite_data _ p)
  exact ⟨State.gpr_congr (s.sprWrite_gprs _ p), fun f => congrArg (·.get f) hfprs, s.sprWrite_ir _ p,
    s.sprWrite_tmr _ p, s.sprWrite_prd _ p, s.sprWrite_pra _ p, s.sprWrite_cr _ p, s.sprWrite_links _ p,
    s.sprWrite_esp _ p, s.sprWrite_globalMask _ p, fun ha => hcfg (hne ha), fun ha => hstp (hne ha), fun ha => hmr (hne ha),
    fun ha => hpwd (hne ha), fun ha => hpwa (hne ha), hsame, s.sprWrite_turns _ p, s.sprWrite_draws _ p⟩

/-- Settles O29: one GPR is written, a draw is made and PC moves on. -/
theorem movs2iFrame : Obligations.Movs2iFrame := by
  intro rd a s t h
  obtain ⟨p, -, -, -, rfl⟩ := execMovs2i_eq_next.1 h
  exact ⟨fun r hr => s.gpr_setGpr_other _ hr, fun _ => rfl, rfl, rfl, rfl, rfl, rfl, rfl, rfl, rfl, rfl, rfl, rfl, rfl,
    rfl, sameMemory_of_eq rfl rfl, rfl⟩

/-! ### Independence of the hidden registers (section 4) -/

/-- The state with other values in the registers that no instruction can read: PC, CR, the link registers, ESP and
MR bit 32. -/
def State.withHidden (s : State) (pc : BitVec 30) (cr : Word) (links : Vector (BitVec 36) 32) (esp : BitVec 5)
    (gm : Bool) : State :=
  { s with pc := pc, cr := cr, links := links, esp := esp, mr := withGlobalMask s.mr gm }

section Hidden

variable (s : State) (pc : BitVec 30) (cr : Word) (links : Vector (BitVec 36) 32) (esp : BitVec 5) (gm : Bool)

/-- `SprRead` depends on no hidden register. -/
theorem State.sprRead_withHidden (p : Spr) : (s.withHidden pc cr links esp gm).sprRead p = s.sprRead p := by
  cases p with
  | mr => exact eventMask_withGlobalMask s.mr gm
  | _ => rfl

/-- `SprWrite` leaves the hidden registers, whatever they hold. -/
theorem State.sprWrite_withHidden (v : Word) (p : Spr) :
    (s.withHidden pc cr links esp gm).sprWrite v p = (s.sprWrite v p).withHidden pc cr links esp gm := by
  cases p with
  | mr => simp only [State.withHidden, State.sprWrite, withEventMask_withGlobalMask]
  | _ => rfl

end Hidden

/-- Settles O30: neither `SprRead` nor `SprWrite` depends on a hidden register, and PC moves on by one from both. -/
theorem hiddenRegistersCannotBeRead : Obligations.HiddenRegistersCannotBeRead := by
  intro i s t pc' cr' links' esp' gm' h hpc'
  show exec i (s.withHidden pc' cr' links' esp' gm') = .next (t.withHidden (pc' + 1) cr' links' esp' gm')
  cases i with
  | movi2s a rs =>
    obtain ⟨p, hperm, haddress, -, rfl⟩ := execMovi2s_eq_next.1 h
    refine execMovi2s_eq_next.2 ⟨p, hperm, haddress, hpc', ?_⟩
    rw [State.sprWrite_withHidden]
    rfl
  | movs2i rd a =>
    obtain ⟨p, hperm, haddress, -, rfl⟩ := execMovs2i_eq_next.1 h
    refine execMovs2i_eq_next.2 ⟨p, hperm, haddress, hpc', ?_⟩
    rw [State.sprRead_withHidden]
    rfl

/-! ### What `movs2i` leaves in its destination (section 3) -/

/-- Settles O21: `SprRead` of TMR, PRD and PRA is a free value. -/
theorem timerAndPeripheralReadsAreFree : Obligations.TimerAndPeripheralReadsAreFree := fun rd _ hpc =>
  ⟨fun hr => exec_movs2i_gprData hr (p := .tmr) rfl hpc rd, fun hr => exec_movs2i_gprData hr (p := .prd) rfl hpc rd,
    fun hr => exec_movs2i_gprData hr (p := .pra) rfl hpc rd⟩

/-- Settles O22: the destination is written whole, with flags that are draws. -/
theorem movedFlagsAreFree : Obligations.MovedFlagsAreFree := by
  intro rd a s t h hk
  obtain ⟨p, -, -, -, rfl⟩ := execMovs2i_eq_next.1 h
  have hrd : (s.writeMoved rd (s.sprRead p)).gpr rd =
      ⟨s.sprRead p, Config.movs2iZero s.draws, Config.movs2iOverflow s.draws, Config.movs2iCarry s.draws⟩ :=
    State.gpr_setGpr_keeps hk
  exact ⟨rfl, congrArg Gpr.c hrd, congrArg Gpr.v hrd, congrArg Gpr.z hrd, rfl⟩

/-- Settles O23: the move goes on either way, and R0 takes the value only if it is an ordinary register. -/
theorem hardwiredR0DiscardsMoves : Obligations.HardwiredR0DiscardsMoves := by
  intro a p s hr ha hpc
  refine ⟨_, exec_movs2i_of_permitted hr ha hpc 0, rfl, ?_⟩
  split
  case isTrue hz => exact ⟨(s.gpr_setGpr_same 0 _).trans (if_pos ⟨rfl, hz⟩), State.gprData_hardwired _ hz⟩
  case isFalse hz => exact State.gprData_writeMoved (.inr (Bool.eq_false_iff.2 hz)) _

end Machine

end Sys2Proof
end

section
/-! The classes of instructions: what each writes to its destination and leaves elsewhere (40_integer_writeback.md,
41_float_writeback.md). -/

namespace Sys2Proof.Machine

/-! ### Pairs (10_state.md R14, R20) -/

/-- An even register and the one after it are a pair. -/
theorem pairOdd_of_even {even odd : RegNum} (he : even.val % 2 = 0) (ho : odd.val = even.val + 1) :
    pairOdd even = some odd :=
  (dif_pos he).trans (congrArg some (Fin.ext ho.symm))

/-- An odd number names no pair (D23). -/
theorem pairOdd_of_odd {r : RegNum} (h : r.val % 2 = 1) : pairOdd r = none :=
  dif_neg (by omega)

/-- The odd register of a pair is the one after it. -/
theorem val_of_pairOdd {even odd : RegNum} (h : pairOdd even = some odd) : odd.val = even.val + 1 := by
  unfold pairOdd at h
  split at h
  · exact (congrArg Fin.val (Option.some.inj h)).symm
  · cases h

/-- The odd register of a pair keeps what is written. -/
theorem keepsWrites_pairOdd {even odd : RegNum} (h : pairOdd even = some odd) : keepsWrites odd :=
  .inl (pairOdd_ne_zero h)

/-- The halves of a double word make it up. -/
theorem append_halves (d : DoubleWord) : d.extractLsb' 32 32 ++ d.extractLsb' 0 32 = d := by
  rw [BitVec.extractLsb'_append_extractLsb'_eq_extractLsb' (by rfl)]
  exact BitVec.extractLsb'_eq_self

/-- Bit 31 of the low half of a double word. -/
theorem lowHalf_bit31 (d : DoubleWord) : (d.extractLsb' 0 32).getLsbD 31 = d.getLsbD 31 := by simp

/-- Bit 31 of the high half of a double word. -/
theorem highHalf_bit31 (d : DoubleWord) : (d.extractLsb' 32 32).getLsbD 31 = d.getLsbD 63 := by simp

/-- Settles O42: the odd register of a pair is never R0, so that it takes what is written. -/
theorem pairAliasesItsRegisters : Obligations.PairAliasesItsRegisters := by
  intro even odd s g x he ho
  have hpair : pairOdd even = some odd := pairOdd_of_even he ho
  have hne : odd ≠ even := pairOdd_ne hpair
  simp [State.gprPair, State.fprPair, hpair, State.gprData, State.fprData,
    State.gpr_setGpr_keeps (keepsWrites_pairOdd hpair), State.gpr_setGpr_other s g hne.symm, State.fpr_setFpr, hne,
    hne.symm]

/-! ### The meanings when their checks pass -/

section Meanings

variable {op : Nat} {d odd : RegNum} {srcs : List Operand} {vs : List OperandValue} {addr : Nat} {fill : Fill}
  {s : State}

theorem execClass_alu (hsrcs : s.operands srcs = some vs) :
    execClass (.alu op d srcs) s =
      (s.aluWrite d (Config.aluWord op vs) (Config.aluWordStatus op vs s.draws)).advance := by
  simp only [execClass, execAlu, hsrcs]

theorem execClass_aluPair (hpair : pairOdd d = some odd) (hsrcs : s.operands srcs = some vs) :
    execClass (.aluPair op d srcs) s =
      (s.aluWritePair d odd (Config.aluDouble op vs) (Config.aluDoubleStatus op vs s.draws)).advance := by
  simp only [execClass, execAluPair, hpair, hsrcs]

theorem execClass_fpu (hsrcs : s.operands srcs = some vs) :
    execClass (.fpu op d srcs) s = (s.fpuWrite d (Config.fpuSingle op vs s.cfg.roundingMode)).advance := by
  simp only [execClass, execFpu, hsrcs]

theorem execClass_fpuPair (hpair : pairOdd d = some odd) (hsrcs : s.operands srcs = some vs) :
    execClass (.fpuPair op d srcs) s =
      (s.fpuWritePair d odd (Config.fpuDouble op vs s.cfg.roundingMode)).advance := by
  simp only [execClass, execFpuPair, hpair, hsrcs]

theorem execClass_loadWord (ha : addr % 4 = 0) :
    execClass (.loadWord d addr) s = (s.loadGpr d (s.dataWord addr)).advance :=
  if_pos ((alignmentPermitted_iff 4 addr).2 (.inl ha))

theorem execClass_loadHalf (ha : addr % 2 = 0) :
    execClass (.loadHalf fill d addr) s = (s.loadGpr d (fill.extend (s.dataHalf addr))).advance :=
  if_pos ((alignmentPermitted_iff 2 addr).2 (.inl ha))

theorem execClass_loadFloat (ha : addr % 4 = 0) :
    execClass (.loadFloat d addr) s = (s.setFpr d ((s.fpr d).withData (s.dataWord addr))).advance :=
  if_pos ((alignmentPermitted_iff 4 addr).2 (.inl ha))

end Meanings

/-- The sequential step leaves every register. -/
theorem State.advance_registers {u : State} (h : u.pc ≠ lastSlot) :
    ∃ t, u.advance = .next t ∧ (∀ r, t.gpr r = u.gpr r) ∧ ∀ f, t.fpr f = u.fpr f :=
  ⟨_, State.advance_of_ne h, fun _ => rfl, fun _ => rfl⟩

/-! ### ALU operations (40_integer_writeback.md, sections 1 and 2) -/

/-- A destination that keeps what is written is no hardwired R0. -/
theorem keepsWrites_not_hardwired {rd : RegNum} (h : keepsWrites rd) : ¬(rd = 0 ∧ Config.r0IsZero = true) := by
  rintro ⟨hzero, hhard⟩
  obtain h | h := h
  · exact h hzero
  · simp [h] at hhard

/-- Settles O31: the destination takes the result and the status, and no other register is written. -/
theorem aluResultSetsDataAndFlags : Obligations.AluResultSetsDataAndFlags := by
  intro op rd srcs vs s hpc hsrcs
  obtain ⟨t, ht, hgpr, hfpr⟩ := State.advance_registers
    (u := s.aluWrite rd (Config.aluWord op vs) (Config.aluWordStatus op vs s.draws)) hpc
  have hwrite (q : RegNum) := (hgpr q).trans (s.gpr_aluWrite rd q _ _)
  refine ⟨t, (execClass_alu hsrcs).trans ht, fun hk => ?_, fun r hr => (hwrite r).trans (if_neg hr), hfpr⟩
  have hrd : t.gpr rd = Gpr.ofAlu (Config.aluWord op vs) (Config.aluWordStatus op vs s.draws) :=
    ((hwrite rd).trans (if_pos rfl)).trans (if_neg (keepsWrites_not_hardwired hk))
  rw [State.gprData, hrd]
  exact ⟨rfl, rfl, rfl, rfl, rfl⟩

/-! ### Data written without flags -/

/-- A GPR after its data are written: the data, if it keeps what is written, and the flags as before either way. -/
theorem Gpr.withData_unless_hardwired {g g' : Gpr} {rd : RegNum} {d : Word}
    (h : g' = if rd = 0 ∧ Config.r0IsZero = true then g else g.withData d) :
    (keepsWrites rd → g'.data = d) ∧ g'.c = g.c ∧ g'.v = g.v ∧ g'.z = g.z := by
  subst h
  by_cases hz : rd = 0 ∧ Config.r0IsZero = true
  · rw [if_pos hz]
    exact ⟨fun hk => absurd hz (keepsWrites_not_hardwired hk), rfl, rfl, rfl⟩
  · rw [if_neg hz]
    exact ⟨fun _ => rfl, rfl, rfl, rfl⟩

/-- Settles O32: the even register takes data alone, and the odd one the high half and the status. -/
theorem aluPairSetsOddFlagsOnly : Obligations.AluPairSetsOddFlagsOnly := by
  intro op even odd srcs vs s he ho hpc hsrcs
  have hpair : pairOdd even = some odd := pairOdd_of_even he ho
  obtain ⟨t, ht, hgpr, -⟩ := State.advance_registers
    (u := s.aluWritePair even odd (Config.aluDouble op vs) (Config.aluDoubleStatus op vs s.draws)) hpc
  have hwrite (q : RegNum) := (hgpr q).trans (s.gpr_aluWritePair hpair q _ _)
  have heven := ((hwrite even).trans (if_neg (pairOdd_ne hpair).symm)).trans (if_pos rfl)
  have hodd := (hwrite odd).trans (if_pos rfl)
  obtain ⟨hdata, hc, hv, hz⟩ := Gpr.withData_unless_hardwired heven
  refine ⟨t, (execClass_aluPair hpair hsrcs).trans ht,
    fun hk => ⟨hdata hk, (congrArg (BitVec.getLsbD · 31) (hdata hk)).trans (lowHalf_bit31 _)⟩, hc, hv, hz, ?_⟩
  rw [State.gprData, hodd]
  exact ⟨rfl, highHalf_bit31 _, rfl, rfl, rfl, fun r hre hro => ((hwrite r).trans (if_neg hro)).trans (if_neg hre)⟩

/-! ### Loads into a GPR (40_integer_writeback.md, section 3) -/

/-- Every GPR after a load. -/
theorem State.gpr_loadGpr (s : State) (rd q : RegNum) (d : Word) :
    (s.loadGpr rd d).gpr q =
      if q = rd then (if rd = 0 ∧ Config.r0IsZero = true then s.gpr rd else (s.gpr rd).withData d) else s.gpr q := by
  split
  · subst q; exact s.gpr_setGpr_same rd _
  · exact s.gpr_setGpr_other _ ‹_›

/-- What every load into a GPR leaves: the datum in a destination that keeps what is written, the flags and every other
register as they were. -/
theorem State.loadGpr_advance {s : State} (hpc : s.pc ≠ lastSlot) (rd : RegNum) (d : Word) :
    ∃ t, (s.loadGpr rd d).advance = .next t ∧ (keepsWrites rd → t.gprData rd = d) ∧
      (t.gpr rd).c = (s.gpr rd).c ∧ (t.gpr rd).v = (s.gpr rd).v ∧ (t.gpr rd).z = (s.gpr rd).z ∧
      ∀ r, r ≠ rd → t.gpr r = s.gpr r := by
  obtain ⟨t, ht, hgpr, -⟩ := State.advance_registers (u := s.loadGpr rd d) hpc
  have hwrite (q : RegNum) := (hgpr q).trans (s.gpr_loadGpr rd q d)
  obtain ⟨hdata, hc, hv, hz⟩ := Gpr.withData_unless_hardwired ((hwrite rd).trans (if_pos rfl))
  exact ⟨t, ht, hdata, hc, hv, hz, fun r hr => (hwrite r).trans (if_neg hr)⟩

/-- Settles O33: every load into a GPR is `State.loadGpr` of its datum. -/
theorem loadLeavesFlags : Obligations.LoadLeavesFlags := by
  intro rd addr fill s hpc op d hop
  have hexec : execClass op s = (s.loadGpr rd d).advance := by
    obtain ⟨rfl, ha, rfl⟩ | ⟨rfl, rfl⟩ | ⟨rfl, ha, rfl⟩ := hop
    · exact execClass_loadWord ha
    · rfl
    · exact execClass_loadHalf ha
  obtain ⟨t, ht, hdata, hflags⟩ := State.loadGpr_advance hpc rd d
  exact ⟨t, hexec.trans ht, fun hk => ⟨hdata hk, congrArg (BitVec.getLsbD · 31) (hdata hk)⟩, hflags⟩

/-- A datum extended to 32 bits, bit by bit: its own bits, and above them zeros or its top bit (R93). -/
theorem Fill.extend_bit {n : Nat} (fill : Fill) (m : BitVec n) {k : Nat} (hk : k < 32) :
    (fill.extend m).getLsbD k = if k < n then m.getLsbD k else decide (fill = .sign) && m.getLsbD (n - 1) := by
  cases fill with
  | zeros =>
    by_cases hn : k < n
    · simp [Fill.extend, hk, hn]
    · simp [Fill.extend, hn, BitVec.getLsbD_of_ge m k (by omega)]
  | sign =>
    show (m.signExtend 32).getLsbD k = _
    rw [BitVec.getLsbD_signExtend, BitVec.msb_eq_getLsbD_last]
    simp [hk]

/-- Settles O34: the datum is extended from 8 or 16 bits. -/
theorem narrowLoadsExtend : Obligations.NarrowLoadsExtend := by
  intro rd addr fill s hpc
  refine ⟨?_, fun ha => ?_⟩
  · obtain ⟨t, ht, hdata, -⟩ := State.loadGpr_advance hpc rd (fill.extend (s.dataByte addr))
    exact ⟨t, ht, fun hk k hk32 => by rw [hdata hk, fill.extend_bit _ hk32]⟩
  · obtain ⟨t, ht, hdata, -⟩ := State.loadGpr_advance hpc rd (fill.extend (s.dataHalf addr))
    exact ⟨t, (execClass_loadHalf ha).trans ht, fun hk k hk32 => by rw [hdata hk, fill.extend_bit _ hk32]⟩

/-! ### Misaligned loads (20_memory.md, section 3) -/

/-- A misaligned access is not performed exactly where the policy refuses it (D6). -/
theorem alignmentPermitted_eq_false_iff {n a : Nat} (h : a % n ≠ 0) :
    alignmentPermitted n a = false ↔ Config.misalignedPolicy = .refuse := by
  rw [← Bool.not_eq_true, alignmentPermitted_iff]
  cases Config.misalignedPolicy <;> simp [h]

/-- What every load that checks its alignment is: refused as misaligned exactly when the check fails. -/
theorem advance_if_aligned_eq_misaligned_iff {b : Bool} {u : State} :
    (if b = true then u.advance else .refused .misalignedAccess) = .refused .misalignedAccess ↔ b = false := by
  cases b <;> simp [State.advance_eq_refused]

/-- Settles O40: each of the three loads checks its alignment first. -/
theorem misalignedLoadFollowsPolicy : Obligations.MisalignedLoadFollowsPolicy := fun _ _ _ _ =>
  ⟨fun ha => ⟨advance_if_aligned_eq_misaligned_iff.trans (alignmentPermitted_eq_false_iff ha),
      advance_if_aligned_eq_misaligned_iff.trans (alignmentPermitted_eq_false_iff ha)⟩,
    fun ha => advance_if_aligned_eq_misaligned_iff.trans (alignmentPermitted_eq_false_iff ha)⟩

/-! ### FPU operations and loads into an FPR (41_float_writeback.md) -/

/-- Settles O35: the destination takes the result and the status, and no other register is written. -/
theorem fpuResultSetsDataAndFlags : Obligations.FpuResultSetsDataAndFlags := by
  rintro op fd srcs vs r s hpc hsrcs rfl
  obtain ⟨t, ht, hgpr, hfpr⟩ := State.advance_registers
    (u := s.fpuWrite fd (Config.fpuSingle op vs s.cfg.roundingMode)) hpc
  have hwrite (q : RegNum) := (hfpr q).trans (s.fpr_fpuWrite fd q _)
  have hfd := (hwrite fd).trans (if_pos rfl)
  refine ⟨t, (execClass_fpu hsrcs).trans ht, ?_⟩
  rw [State.fprData, hfd]
  exact ⟨rfl, rfl, rfl, rfl, rfl, fun f hf => (hwrite f).trans (if_neg hf), hgpr⟩

/-- Settles O36: the even register takes data alone, and the odd one the high half and the status. -/
theorem fpuPairSetsOddFlagsOnly : Obligations.FpuPairSetsOddFlagsOnly := by
  rintro op even odd srcs vs r s he ho hpc hsrcs rfl
  have hpair : pairOdd even = some odd := pairOdd_of_even he ho
  obtain ⟨t, ht, -, hfpr⟩ := State.advance_registers
    (u := s.fpuWritePair even odd (Config.fpuDouble op vs s.cfg.roundingMode)) hpc
  have hwrite (q : RegNum) := (hfpr q).trans (s.fpr_fpuWritePair even odd q _)
  have heven := ((hwrite even).trans (if_neg (pairOdd_ne hpair).symm)).trans (if_pos rfl)
  have hodd := (hwrite odd).trans (if_pos rfl)
  refine ⟨t, (execClass_fpuPair hpair hsrcs).trans ht, ?_⟩
  rw [State.fprData, heven, State.fprData, hodd]
  exact ⟨rfl, lowHalf_bit31 _, rfl, rfl, rfl, rfl, highHalf_bit31 _, rfl, rfl, rfl,
    fun f hfe hfo => ((hwrite f).trans (if_neg hfo)).trans (if_neg hfe)⟩

/-- Settles O37: the destination takes data alone, and no other FPR is written. -/
theorem floatLoadLeavesFlags : Obligations.FloatLoadLeavesFlags := by
  intro fd addr s hpc ha
  obtain ⟨t, ht, -, hfpr⟩ := State.advance_registers
    (u := s.setFpr fd ((s.fpr fd).withData (s.dataWord addr))) hpc
  have hwrite (q : RegNum) := (hfpr q).trans (s.fpr_setFpr fd q _)
  have hfd := (hwrite fd).trans (if_pos rfl)
  refine ⟨t, (execClass_loadFloat ha).trans ht, ?_⟩
  rw [State.fprData, hfd]
  exact ⟨rfl, rfl, rfl, rfl, rfl, fun f hf => (hwrite f).trans (if_neg hf)⟩

/-- The value of a written FPR pair is the whole result. -/
theorem State.fprPair_fpuWritePair (s : State) {even odd : RegNum} (h : pairOdd even = some odd) (r : FpuResult 64) :
    (s.fpuWritePair even odd r).fprPair even = some r.value := by
  simp only [State.fprPair, State.fprData, h, Option.map_some, State.fpr_fpuWritePair, if_true,
    if_neg (pairOdd_ne h).symm]
  exact congrArg some (append_halves r.value)

/-- A pair depends on its two registers alone. -/
theorem State.fprPair_congr {s t : State} (h : ∀ f, t.fpr f = s.fpr f) (f : RegNum) : t.fprPair f = s.fprPair f := by
  simp only [State.fprPair, State.fprData, h]

/-- Settles O38: the operation reads the rounding mode of CFG when it executes. -/
theorem roundingModeSelectsOutcome : Obligations.RoundingModeSelectsOutcome := by
  refine ⟨fun op fd srcs vs s hpc hsrcs => ?_, fun op even srcs vs s he hpc hsrcs => ?_⟩
  · obtain ⟨t, ht, -, hfpr⟩ := State.advance_registers
      (u := s.fpuWrite fd (Config.fpuSingle op vs s.cfg.roundingMode)) hpc
    have hdata : t.fprData fd = (Config.fpuSingle op vs s.cfg.roundingMode).value :=
      congrArg Fpr.data (((hfpr fd).trans (s.fpr_fpuWrite fd fd _)).trans (if_pos rfl))
    refine ⟨t, (execClass_fpu hsrcs).trans ht, ?_⟩
    simp +contextual [hdata, Cfg.roundingMode]
  · obtain ⟨odd, hpair⟩ : ∃ odd, pairOdd even = some odd := ⟨_, dif_pos he⟩
    obtain ⟨t, ht, -, hfpr⟩ := State.advance_registers
      (u := s.fpuWritePair even odd (Config.fpuDouble op vs s.cfg.roundingMode)) hpc
    have hdata : t.fprPair even = some (Config.fpuDouble op vs s.cfg.roundingMode).value :=
      (State.fprPair_congr hfpr even).trans (s.fprPair_fpuWritePair hpair _)
    refine ⟨t, (execClass_fpuPair hpair hsrcs).trans ht, ?_⟩
    simp +contextual [hdata, Cfg.roundingMode]

/-- Settles O59: both runs apply one value function to the same operands and the same rounding mode. -/
theorem fpuDependsOnOperandsAndModeAlone : Obligations.FpuDependsOnOperandsAndModeAlone := by
  intro op fd srcs s s' t t' hsrcs hrounding
  have hmode : s.cfg.roundingMode = s'.cfg.roundingMode := by rw [Cfg.roundingMode, hrounding, Cfg.roundingMode]
  refine ⟨fun h h' => ?_, fun h h' => ?_⟩
  · obtain ⟨vs, hvs, -, rfl⟩ := execFpu_eq_next.1 h
    obtain ⟨vs', hvs', -, rfl⟩ := execFpu_eq_next.1 h'
    obtain rfl : vs = vs' := Option.some.inj (hvs.symm.trans (hsrcs.trans hvs'))
    have hfd (u : State) (r : FpuResult 32) := (u.fpr_fpuWrite fd fd r).trans (if_pos rfl)
    rw [hmode]
    exact (hfd s _).trans (hfd s' _).symm
  · obtain ⟨odd, vs, hpair, hvs, -, rfl⟩ := execFpuPair_eq_next.1 h
    obtain ⟨odd', vs', hpair', hvs', -, rfl⟩ := execFpuPair_eq_next.1 h'
    obtain rfl : vs = vs' := Option.some.inj (hvs.symm.trans (hsrcs.trans hvs'))
    obtain rfl : odd = odd' := Option.some.inj (hpair.symm.trans hpair')
    rw [hmode]
    refine ⟨(s.fprPair_fpuWritePair hpair _).trans (s'.fprPair_fpuWritePair hpair _).symm, fun o ho => ?_⟩
    obtain rfl : o = odd := Fin.ext (ho.trans (val_of_pairOdd hpair).symm)
    have hodd (u : State) (r : FpuResult 64) := (u.fpr_fpuWritePair fd o o r).trans (if_pos rfl)
    exact (hodd s _).trans (hodd s' _).symm

/-! ### Odd pairs (D23) -/

/-- Settles O39: an odd number names no pair, as a destination or as a source. -/
theorem oddPairIsRefused : Obligations.OddPairIsRefused := by
  refine ⟨fun op r srcs s hodd => ?_, fun op d r srcs s hodd hmem => ?_⟩
  · simp [execClass, execAluPair, execFpuPair, pairOdd_of_odd hodd]
  · have hnone : s.operands srcs = none := State.operands_eq_none_iff.2 ⟨r, hodd, hmem⟩
    simp [execClass, execAlu, execAluPair, execFpu, execFpuPair, hnone]

/-! ### What a class leaves (the frame) -/

/-- Settles O41, by cases on the class. -/
theorem classOperationFrame : Obligations.ClassOperationFrame := by
  intro c s t hc h
  suffices hframe : t = { s with gprs := t.gprs, fprs := t.fprs, draws := t.draws, pc := s.pc + 1 } ∧
      if c.isFloat = true then t.gprs = s.gprs ∧ t.draws = s.draws else t.fprs = s.fprs by
    obtain ⟨hframe, hregs⟩ := hframe
    exact ⟨hframe, sameMemory_of_eq (by rw [hframe]) (by rw [hframe]), hregs⟩
  cases c with
  | alu => obtain ⟨_, -, -, rfl⟩ := execAlu_eq_next.1 h; exact ⟨rfl, rfl⟩
  | aluPair => obtain ⟨_, _, -, -, -, rfl⟩ := execAluPair_eq_next.1 h; exact ⟨rfl, rfl⟩
  | loadWord => obtain ⟨-, -, rfl⟩ := execLoadWord_eq_next.1 h; exact ⟨rfl, rfl⟩
  | loadByte => obtain ⟨-, rfl⟩ := execLoadByte_eq_next.1 h; exact ⟨rfl, rfl⟩
  | loadHalf => obtain ⟨-, -, rfl⟩ := execLoadHalf_eq_next.1 h; exact ⟨rfl, rfl⟩
  | fpu => obtain ⟨_, -, -, rfl⟩ := execFpu_eq_next.1 h; exact ⟨rfl, rfl, rfl⟩
  | fpuPair => obtain ⟨_, _, -, -, -, rfl⟩ := execFpuPair_eq_next.1 h; exact ⟨rfl, rfl, rfl⟩
  | loadFloat => obtain ⟨-, -, rfl⟩ := execLoadFloat_eq_next.1 h; exact ⟨rfl, rfl, rfl⟩
  | exceptionReturn => exact absurd rfl hc

end Sys2Proof.Machine
end

section
/-! The named status of single-precision results (decision D20 under IEEE 754). -/

namespace Sys2Proof.Machine

section NamedStatus

variable (x : BitVec 32)

/-- The exponent field is all ones exactly from the infinity of either sign on. -/
theorem exponent_eq_ones_iff : x.extractLsb' 23 8 = 255#8 ↔ 0x7F800000 ≤ x.toNat % 2 ^ 31 := by
  rw [← BitVec.toNat_inj, BitVec.extractLsb'_toNat, Nat.shiftRight_eq_div_pow, BitVec.toNat_ofNat]
  omega

/-- The fraction field is zero exactly at multiples of 2^23. -/
theorem fraction_eq_zero_iff : x.extractLsb' 0 23 = 0#23 ↔ x.toNat % 2 ^ 23 = 0 := by
  rw [← BitVec.toNat_inj, BitVec.extractLsb'_toNat]
  simp

/-- The magnitude is zero exactly when all bits but the sign are. -/
theorem magnitude_eq_zero_iff : x.extractLsb' 0 31 = 0#31 ↔ x.toNat % 2 ^ 31 = 0 := by
  rw [← BitVec.toNat_inj, BitVec.extractLsb'_toNat]
  simp

/-- A word of a magnitude below 2^31 is one of two, by its sign. -/
theorem eq_or_eq_signed_iff {n : Nat} (hn : n < 2 ^ 31) :
    x = BitVec.ofNat 32 n ∨ x = BitVec.ofNat 32 (2 ^ 31 + n) ↔ x.toNat % 2 ^ 31 = n := by
  rw [← BitVec.toNat_inj, ← BitVec.toNat_inj, BitVec.toNat_ofNat, BitVec.toNat_ofNat]
  have hlt := x.isLt
  omega

theorem FpuStatus.ofSingle_z_iff : (FpuStatus.ofSingle x).z = true ↔ x = 0x00000000#32 ∨ x = 0x80000000#32 := by
  refine Iff.trans ?_ (eq_or_eq_signed_iff x (n := 0) (by decide)).symm
  exact beq_iff_eq.trans (magnitude_eq_zero_iff x)

theorem FpuStatus.ofSingle_i_iff : (FpuStatus.ofSingle x).i = true ↔ x = 0x7F800000#32 ∨ x = 0xFF800000#32 := by
  refine Iff.trans ?_ (eq_or_eq_signed_iff x (n := 0x7F800000) (by decide)).symm
  simp only [FpuStatus.ofSingle, Bool.and_eq_true, beq_iff_eq, exponent_eq_ones_iff, fraction_eq_zero_iff]
  omega

theorem FpuStatus.ofSingle_a_iff : (FpuStatus.ofSingle x).a = true ↔ x.toNat % 2 ^ 31 ≤ 0x7F800000 := by
  simp only [FpuStatus.ofSingle, Bool.not_eq_true', Bool.and_eq_false_iff, beq_eq_false_iff_ne, bne_eq_false_iff_eq,
    ne_eq, exponent_eq_ones_iff, fraction_eq_zero_iff]
  omega

end NamedStatus

/-- Settles O44: the fields of the format as conditions on the number the word stands for. -/
theorem namedFpuStatusOfSingles : Obligations.NamedFpuStatusOfSingles :=
  ⟨fun x => ⟨FpuStatus.ofSingle_z_iff x, FpuStatus.ofSingle_i_iff x, FpuStatus.ofSingle_a_iff x⟩,
    fun fd _ s => (s.fpr_fpuWrite fd fd _).trans (if_pos rfl)⟩

end Sys2Proof.Machine
end

section
/-! The agents beside the core's instructions, and which step may write which register (60_exceptions.md). -/

namespace Sys2Proof.Machine

/-! ### The timer and the detection logic (sections 1 and 6) -/

/-- A step clears a bit of CR only if it starts the handler of that event, which may be taken (R160, R161). -/
theorem step_keeps_cause {s t : State} {k : EventNum} (h : step s = .next t) (hk : s.cr.getLsbD k.val = true) :
    t.cr.getLsbD k.val = true ∨ (s.turns.head? = some (.agent (.enters k)) ∧ s.mayEnter k = true) := by
  cases step_effect h with
  | specialWrite p => exact .inl ((congrArg (BitVec.getLsbD · k.val) (State.sprWrite_cr _ _ p)).trans hk)
  | timer => exact .inl (withSystick_keeps hk)
  | @detect i => exact .inl ((withCause_bit s.cr i k).trans (by rw [hk, Bool.true_or]))
  | @enter i hturn hmay =>
    by_cases hki : k = i
    · exact .inr (hki ▸ ⟨hturn, hmay⟩)
    · exact .inl ((withoutCause_bit s.cr i k).trans (by rw [hk, decide_eq_true hki, Bool.true_and]))
  | _ => exact .inl hk

/-- Settles O45: a detection sets one bit, and of all steps only the start of a handler clears one, its own. -/
theorem detectionSetsAndKeepsCause : Obligations.DetectionSetsAndKeepsCause :=
  ⟨fun s i hturn => ⟨_, step_agent hturn, withCause_bit s.cr i, rfl⟩, fun _ _ _ => step_keeps_cause⟩

/-- Settles O52: counting goes one down, and raises systick at zero; both are free at zero and on a load. -/
theorem timerCountsDownToSystick : Obligations.TimerCountsDownToSystick := by
  refine ⟨fun s hturn hne => ?_, fun s hturn hzero => ?_, fun s hturn => ?_⟩
  · have hcount := State.timerCount_of_ne_zero (s := s.takeTurn) hne
    refine ⟨_, (step_agent hturn).trans (congrArg Host.Outcome.next hcount), ?_, fun k => ?_, rfl⟩
    · have hpos : s.tmr.toNat ≠ 0 := fun e => hne (BitVec.eq_of_toNat_eq e)
      exact BitVec.toNat_sub_of_le (BitVec.le_def.2 (Nat.one_le_iff_ne_zero.2 hpos))
    · have hraised : (s.tmr == 1) = decide (s.tmr - 1 = 0) := by
        rw [Bool.eq_iff_iff, beq_iff_eq, decide_eq_true_iff, sub_eq_zero]
      exact (withSystick_bit s.cr (s.tmr == 1) k).trans (by rw [hraised]; rfl)
  · have hcount := State.timerCount_of_zero (s := s.takeTurn) hzero
    exact ⟨_, (step_agent hturn).trans (congrArg Host.Outcome.next hcount), rfl, withSystick_bit s.cr _, rfl⟩
  · refine ⟨_, step_agent hturn, rfl, withSystick_bit s.cr _, ?_, rfl⟩
    show s.timerStarts - 1 = 0 ∧ s.timerStarts = 0 ∨ s.timerStarts - 1 + 1 = s.timerStarts
    omega

/-- Settles O53: only an effect of the timer has another TMR. -/
theorem onlyTimerWritesTmr : Obligations.OnlyTimerWritesTmr := by
  intro s t h hne
  cases step_effect h with
  | specialWrite p => exact absurd (State.sprWrite_tmr _ _ p) hne
  | timer hturn hact => obtain rfl | rfl := hact <;> [exact .inl hturn; exact .inr hturn]
  | _ => exact absurd rfl hne

/-! ### The peripherals (section 7) and memory (20_memory.md) -/

/-- Settles O54: only an effect of the peripherals has another PRD or PRA, and a read gives a free value. -/
theorem peripheralsAloneSetPrdPra : Obligations.PeripheralsAloneSetPrdPra := by
  refine ⟨fun s datum ident hturn => step_agent hturn, fun s t h hother => ?_, fun rd s huser hpc hk => ?_⟩
  · cases step_effect h with
    | specialWrite p => exact ⟨State.sprWrite_prd _ _ p, State.sprWrite_pra _ _ p⟩
    | present hturn => exact absurd hturn (hother _ _)
    | _ => exact ⟨rfl, rfl⟩
  · have hread (a : SprAddress) : s.sprPermitted .read a = true := State.sprPermitted_supervisor huser .read a
    obtain ⟨t, ht, hprd⟩ := exec_movs2i_gprData (hread 0x07) (p := .prd) rfl hpc rd
    obtain ⟨t', ht', hpra⟩ := exec_movs2i_gprData (hread 0x08) (p := .pra) rfl hpc rd
    exact ⟨⟨t, ht, hprd hk⟩, t', ht', hpra hk⟩

/-- Settles O55: every step leaves both memories listed as they were. -/
theorem noStepWritesMemory : Obligations.NoStepWritesMemory := by
  intro s t h
  obtain ⟨hcode, hdata, -⟩ := step_code_data_turns h
  exact sameMemory_of_eq hcode hdata

/-! ### IR and the configuration (10_state.md, sections 3 to 5 and 7) -/

/-- Settles O56: an effect of the core holds the fetched word in IR, and another agent's leaves IR. -/
theorem coreTurnHoldsWordInIr : Obligations.CoreTurnHoldsWordInIr := by
  intro s t h
  refine ⟨fun ⟨u, hcore⟩ => ?_, fun ⟨act, hturn⟩ => ?_⟩
  · have hnot := State.coreNext_not_agent hcore
    cases step_effect h with
    | specialWrite p => exact State.sprWrite_ir _ _ p
    | registers => rfl
    | excReturn => rfl
    | timer hturn => exact absurd hturn (hnot _)
    | detect hturn => exact absurd hturn (hnot _)
    | enter hturn => exact absurd hturn (hnot _)
    | notEntered hturn => exact absurd hturn (hnot _)
    | present hturn => exact absurd hturn (hnot _)
  · obtain rfl : s.takeTurn.agentTurn act = t := Host.Outcome.next.inj ((step_agent hturn).symm.trans h)
    obtain ⟨-, -, -, hir, -⟩ := s.takeTurn.agentTurn_registers act
    exact hir

/-- Settles O57: STP and CFG are written by a write to their own address, and CFG bit 0 by an entry or a return too. -/
theorem softwareAloneSetsConfiguration : Obligations.SoftwareAloneSetsConfiguration := by
  intro s t h
  cases step_effect h with
  | @specialWrite u a rs p hcore hdecode haddress =>
    have hwrites (q : Spr) (hpq : p = q) :
        ∃ u rs, s.coreNext u ∧ decode s.fetchBytes = .ok (.movi2s q.address rs, []) :=
      ⟨u, rs, hcore, (sprOf_eq_some_iff a q).1 (hpq ▸ haddress) ▸ hdecode⟩
    obtain ⟨hcfg, hstp, -⟩ := s.takeTurn.fetchToIr.sprWrite_other (s.gprData rs) p
    refine ⟨fun hne => hwrites .stp ?_, fun hne => hwrites .cfg ?_, fun hne => .inl (hwrites .cfg ?_)⟩
    · exact not_not.1 fun hp => hne (hstp hp)
    · exact not_not.1 fun hp => hne (by rw [(hcfg hp).1]; rfl)
    · exact not_not.1 fun hp => hne (by rw [(hcfg hp).1]; rfl)
  | excReturn hturn hdecode => exact ⟨absurd rfl, absurd rfl, fun _ => .inr (.inr ⟨hturn, hdecode⟩)⟩
  | enter hturn hmay => exact ⟨absurd rfl, absurd rfl, fun _ => .inr (.inl ⟨_, hturn, hmay⟩)⟩
  | _ => exact ⟨absurd rfl, absurd rfl, absurd rfl⟩

/-! ### Taking an event (sections 1 to 3 and 8) -/

section Entry

variable {s : State} {i : EventNum}

/-- The step that starts the handler of an event that may be taken. -/
theorem step_enters (hturn : s.turns.head? = some (.agent (.enters i))) (hmay : s.mayEnter i = true) :
    step s = .next (s.takeTurn.takeException i) :=
  (step_agent hturn).trans (congrArg Host.Outcome.next (if_pos hmay))

/-- The step that would start the handler of an event that may not be taken. -/
theorem step_not_enters (hturn : s.turns.head? = some (.agent (.enters i))) (hmay : s.mayEnter i = false) :
    step s = .next s.takeTurn :=
  (step_agent hturn).trans (congrArg Host.Outcome.next (if_neg (by rw [Bool.not_eq_true]; exact hmay)))

/-- The link register used holds PC + 1 in its low 30 bits after an entry before the last slot (R165). -/
theorem State.takeException_returnAddress (hpc : s.pc ≠ lastSlot) (i : EventNum) :
    ((s.takeException i).links.get s.entryLink).extractLsb' 0 30 = s.pc + 1 := by
  rw [State.takeException_links_get, if_pos rfl, State.returnAddress, if_neg hpc]
  exact BitVec.extractLsb'_append_eq_right

/-- An entry leaves every link register but the one used. -/
theorem State.takeException_links_other {j : Fin 32} (hj : j ≠ s.entryLink) (i : EventNum) :
    (s.takeException i).links.get j = s.links.get j := by
  rw [State.takeException_links_get, if_neg hj]

/-- No event may be taken while the global mask is set (R164). -/
theorem State.mayEnter_of_globalMask (h : s.globalMask = true) (i : EventNum) : s.mayEnter i = false := by
  simp [State.mayEnter, h]

/-- MR enables an event exactly when its bit has the value that enables (R163, D10). -/
theorem State.eventEnabled_iff :
    s.eventEnabled i = true ↔ s.mr.getLsbD i.val = decide (Config.mrSetMeans = .enables) := by
  unfold State.eventEnabled
  cases Config.mrSetMeans <;> simp

end Entry

/-- Settles O46: an entry clears one bit, and neither `movi2s` nor `movs2i` writes CR. -/
theorem handlerStartClearsItsCauseOnly : Obligations.HandlerStartClearsItsCauseOnly := by
  refine ⟨fun s i hturn hmay => ⟨_, step_enters hturn hmay, withoutCause_bit s.cr i⟩, fun i s t h => ?_⟩
  cases i with
  | movi2s a rs =>
    obtain ⟨p, -, -, -, rfl⟩ := execMovi2s_eq_next.1 h
    exact s.sprWrite_cr _ p
  | movs2i rd a =>
    obtain ⟨p, -, -, -, rfl⟩ := execMovs2i_eq_next.1 h
    rfl

/-- A step that changes a link register starts the handler of an event that may be taken. -/
theorem step_links_changed {s t : State} (h : step s = .next t) (hne : t.links ≠ s.links) :
    ∃ i, s.turns.head? = some (.agent (.enters i)) ∧ s.mayEnter i = true := by
  cases step_effect h with
  | specialWrite p => exact absurd (State.sprWrite_links _ _ p) hne
  | enter hturn hmay => exact ⟨_, hturn, hmay⟩
  | _ => exact absurd rfl hne

/-- Settles O47: the entry writes the link register it uses, and no other effect of a step writes one. -/
theorem entrySavesReturnAddress : Obligations.EntrySavesReturnAddress :=
  ⟨fun s i hturn hmay hpc => ⟨_, step_enters hturn hmay, s.entryLink_noStack,
      State.takeException_returnAddress (s := s.takeTurn) hpc i,
      fun _ hk => State.takeException_links_other (s := s.takeTurn) hk i⟩,
    fun _ _ => step_links_changed⟩

/-- Settles O48: the entry is one update of the state, and of MR it writes bit 32 alone. -/
theorem entryFrame : Obligations.EntryFrame := fun s i hturn hmay =>
  ⟨_, step_enters hturn hmay, rfl, eventMask_withGlobalMask _ _, globalBit_withGlobalMask _ _,
    s.espAfterEntry_noStack, fun _ hk => State.takeException_links_other (s := s.takeTurn) hk i, rfl⟩

/-- Settles O49: no event may be taken while the mask is set, and only an entry or a return writes the mask. -/
theorem globalMaskDisablesEvents : Obligations.GlobalMaskDisablesEvents := by
  refine ⟨fun s i hmask hturn => step_not_enters hturn (State.mayEnter_of_globalMask hmask i),
    fun s t k hmask h => ⟨?_, fun hk => ?_⟩, fun s t h hne => ?_, rfl⟩
  · by_contra hne
    obtain ⟨i, -, hmay⟩ := step_links_changed h hne
    rw [State.mayEnter_of_globalMask hmask] at hmay
    cases hmay
  · obtain hkept | ⟨-, hmay⟩ := step_keeps_cause h hk
    · exact hkept
    · rw [State.mayEnter_of_globalMask hmask] at hmay
      cases hmay
  · cases step_effect h with
    | specialWrite p => exact absurd (State.sprWrite_globalMask _ _ p) hne
    | enter hturn => exact .inl ⟨_, hturn⟩
    | excReturn hturn => exact .inr hturn
    | _ => exact absurd rfl hne

/-- Settles O50: an event that may be taken is pending and enabled. -/
theorem disabledEventIsNotTaken : Obligations.DisabledEventIsNotTaken := by
  intro s i hturn hoff
  refine step_not_enters hturn (Bool.eq_false_iff.2 fun hmay => ?_)
  rw [State.mayEnter, Bool.and_eq_true, Bool.and_eq_true, State.eventEnabled_iff] at hmay
  obtain ⟨⟨hpending, -⟩, henabled⟩ := hmay
  obtain hoff | hoff := hoff
  · rw [hoff] at hpending
    cases hpending
  · exact hoff henabled

/-! ### The return, and the register ESP names (sections 3 and 8) -/

/-- Settles O51: the return is one update of the state, and of MR it writes bit 32 alone. -/
theorem returnLoadsSavedPc : Obligations.ReturnLoadsSavedPc := fun s =>
  ⟨_, rfl, rfl, s.returnLink_noStack, eventMask_withGlobalMask _ _, rfl⟩

/-- The link register an entry uses, by the ESP before and after it (R167, R168). -/
theorem State.entryLink_eq (s : State) (i : EventNum) :
    s.entryLink = if Config.hasLrs = true then
      (if Config.espTop = .lastWritten then (s.takeException i).esp.toFin else s.esp.toFin) else 0 := by
  unfold State.entryLink
  cases Config.espTop <;> rfl

/-- The link register a return uses, by the ESP before and after it (R167, R168). -/
theorem State.returnLink_eq (s : State) :
    s.returnLink = if Config.hasLrs = true then
      (if Config.espTop = .lastWritten then s.esp.toFin else s.returnFromException.esp.toFin) else 0 := by
  unfold State.returnLink
  cases Config.espTop <;> rfl

/-- Settles O60: the link register used is the one these values of ESP name. -/
theorem espNamesTheTop : Obligations.EspNamesTheTop := by
  refine ⟨fun s i hturn hmay hpc => ⟨_, step_enters hturn hmay, ?_⟩, fun s => ⟨_, rfl, ?_⟩⟩
  · have hlink := State.entryLink_eq s.takeTurn i
    exact hlink ▸ State.takeException_returnAddress (s := s.takeTurn) hpc i
  · exact congrArg (fun j => (s.links.get j).extractLsb' 0 30) s.returnLink_eq

/-! ### Reset (70_reset_and_hazards.md, section 1) -/

/-- Settles O2: the fields of reset, every register of either file being the reset register. -/
theorem resetStartsInSupervisorAtZero : Obligations.ResetStartsInSupervisorAtZero := by
  have hgpr (r : RegNum) : (State.reset.gprs.get r).storage = 0 := by rw [State.reset_gprs_get]; decide
  have hfpr (f : RegNum) : (State.reset.fprs.get f).storage = 0 := by rw [State.reset_fprs_get]; decide
  exact ⟨rfl, rfl, rfl, rfl, rfl, rfl, rfl, fun _ => BitVec.getLsbD_zero, hgpr, hfpr, rfl, rfl⟩

end Sys2Proof.Machine
end
